-- ==== Sys2Proof/Word.lean ====
section
/-! DEFINITION. The bit-vector types of the engine: the byte every transfer is made of (20_memory.md R62), the 16-bit
command and response word (30_encoding.md R80, R81) and the 64-bit word of SHA-512 (47_sha512_function.md R200). -/

namespace Sys2Proof

/-- A byte, an unsigned integer in 0 to 255 (R7). -/
abbrev Byte := BitVec 8

/-- A command word (R80) or a response word (R81). -/
abbrev Word16 := BitVec 16

/-- A word of SHA-512 (R200). -/
abbrev Word64 := BitVec 64

/-- A 64-byte digest (R10, R22): `d[k]` is byte `k` of the digest as a byte sequence. -/
abbrev Digest := Vector Byte 64

end Sys2Proof
end

