-- ==== Sys2Proof/Config.lean ====
section
/-! DEFINITION. What is fixed for one engine (00_scope.md R6, R21): the numbers of the scheme, the open parameters, and the
free value of the digest unit's answers. -/

namespace Sys2Proof

/-- `ROUNDS` (R6): the number of round-mixing rounds. -/
@[simp] abbrev Config.rounds : Nat := 5000

/-- `SALT_MAX` (R6): salt bytes used, more are dropped. -/
@[simp] abbrev Config.saltMax : Nat := 16

/-- `CHUNK` (R6): most bytes of `ALT` fed by one cover-loop iteration. -/
@[simp] abbrev Config.chunk : Nat := 64

/-- `SREP_BASE` (R6): the S-sequence repeats the salt `16 + RESULT[0]` times. -/
@[simp] abbrev Config.sRepBase : Nat := 16

/-- `NTRIPLE` (R6): index triples in the permutation table. -/
@[simp] abbrev Config.nTriple : Nat := 21

/-- `ENC_LEN` (R6): characters of the encoded digest. -/
@[simp] abbrev Config.encLen : Nat := 86

/-- `OUT_MAX` (R6): bytes of the longest output. -/
@[simp] abbrev Config.outMax : Nat := 106

/-- The parameters the spec leaves open for an implementation (R6, R21; 92_eei_decisions.md D6, D12): the capacity of the
password buffer, and whether the digest unit may report failure. No step writes them. (The third one, `SHA512`, is the
standard function of Machine/Sha512.lean: DESIGN CHOICE, safe or unsafe as log entry 4 says.) -/
structure Params where
  pwMax : Nat
  digestCanFail : Bool
  deriving DecidableEq, Repr

/-- The constraint on the parameters (R6): `0 <= PW_MAX < 2^32`. -/
abbrev Params.WF (p : Params) : Prop := p.pwMax < 2 ^ 32

/-- The parameters of the engine that `State.reset` shows: `PW_MAX = 1024`, the value the vectors of 95_test_vectors.md use,
and a digest unit that never fails (R6). DESIGN CHOICE, unsafe (log entry 3): the spec leaves both open. -/
def Params.default : Params := { pwMax := 1024, digestCanFail := false }

/-- The answer of the digest unit to digest-port operation `k` where the environment's list of answers does not give it
(R114): `true` is `fail`. A free value, DESIGN CHOICE, safe (log entry 5): it has no body, so nothing can be proved of it. -/
opaque Config.freeAnswer : Nat → Bool

end Sys2Proof
end

