-- ==== Sys2Proof/Syntax.lean ====
section
/-! DEFINITION. The engine's instructions (00_scope.md R12): one constructor per row of spec/opcode_table.json, that is the
seven host commands, the two rows of illegal opcode space, the 28 sequencer operations and the three digest-port operations;
and their encoded forms. -/

namespace Sys2Proof

/-- An instruction. Host commands carry `imm8` where they have one (R85); a row of illegal opcode space carries the bits
the row leaves free; `DIG.FEED` carries the bytes that follow its code (R112). -/
inductive Instr where
  -- host commands, 46_host_commands.md
  | nop
  | clr
  | pushp (imm8 : Byte)
  | pushs (imm8 : Byte)
  | start
  | popc
  | rdreg (sel : Byte)
  -- illegal opcode space, R188
  | illegalOp7 (low : BitVec 12)
  | illegalOp8to15 (low : BitVec 15)
  -- alternate-sum stage, 41_alternate_sum.md
  | aInit
  | aPw1
  | aSalt
  | aPw2
  | aFin
  -- main-sum stage, 42_main_sum.md
  | mInit
  | mPw
  | mSalt
  | mCover
  | mBits
  | mFin
  -- sequence-construction stage, 43_sequence_construction.md
  | pInit
  | pRep
  | pFin
  | pFill
  | sInit
  | sRep
  | sFin
  | sFill
  -- round-mixing stage, 44_round_mixing.md
  | rInit
  | rF1
  | rF2
  | rF3
  | rF4
  | rFin
  -- encoding stage, 45_encoding_stage.md
  | ePrefix
  | eGroup
  | eLast
  -- digest-port operations, 40_digest_port.md
  | digStart
  | digFeed (bytes : List Byte)
  | digFinal
  deriving DecidableEq, Repr

/-- The encoded form of an instruction, in one of the three formats of 30_encoding.md: a host command word (R80), a
`STAGE` code (R82), or a digest-port code with the bytes that follow it (R83). -/
inductive Encoded where
  | cmd16 (word : Word16)
  | stage5 (code : BitVec 5)
  | digop2 (code : BitVec 2) (data : List Byte)
  deriving DecidableEq, Repr

/-- Why an encoded form is no instruction. -/
inductive DecodeError where
  /-- R86 item 2: a reserved field of a command word is not zero. The host command is rejected `RESERVED_FIELD`. -/
  | reservedField
  /-- R26: the `STAGE` codes 0, 29 and 30 (IDLE, DONE, FAULT) select no sequencer operation. -/
  | noSequencerOperation
  /-- R27, U5: `STAGE` code 31 is reserved; no sequencer step is enabled there. -/
  | reservedStage
  /-- R83: digest-port code 0 is no operation. -/
  | noPortOperation
  /-- R83: `DIG.START` and `DIG.FINAL` have no request data. -/
  | unexpectedPortData
  /-- R83: `DIG.FEED` has at most `PW_MAX` bytes of request data. -/
  | requestTooLong
  deriving DecidableEq, Repr

end Sys2Proof
end

