-- ==== Sys2Proof/Decode.lean ====
section
/-! DEFINITION. The decoders of the three formats (30_encoding.md R80 to R87), total, rejecting by name, and the encoder. -/

namespace Sys2Proof

/-- `op`, bits 15:12 of a command word (R80). -/
def opField (w : Word16) : BitVec 4 := w.extractLsb' 12 4

/-- `rsv`, bits 11:8 of a command word (R80). -/
def rsvField (w : Word16) : BitVec 4 := w.extractLsb' 8 4

/-- `imm8`, bits 7:0 of a command word (R80, R85). -/
def immField (w : Word16) : Byte := w.extractLsb' 0 8

/-- A command without an operand: `rsv` and `imm8` must be 0 (R84, R86 item 2). -/
def bareCommand (i : Instr) (w : Word16) : Except DecodeError Instr :=
  if rsvField w = 0#4 ∧ immField w = 0#8 then .ok i else .error .reservedField

/-- A command with an operand: `rsv` must be 0 (R84, R86 item 2). -/
def immCommand (f : Byte → Instr) (w : Word16) : Except DecodeError Instr :=
  if rsvField w = 0#4 then .ok (f (immField w)) else .error .reservedField

/-- The command decoder (R84, R86): an opcode of 7 or more is illegal whatever the other bits are. -/
def decodeCmd16 (w : Word16) : Except DecodeError Instr :=
  match (opField w).toNat with
  | 0 => bareCommand .nop w
  | 1 => bareCommand .clr w
  | 2 => immCommand .pushp w
  | 3 => immCommand .pushs w
  | 4 => bareCommand .start w
  | 5 => bareCommand .popc w
  | 6 => immCommand .rdreg w
  | 7 => .ok (.illegalOp7 (w.extractLsb' 0 12))
  | _ => .ok (.illegalOp8to15 (w.extractLsb' 0 15))

/-- The decoder of the sequencer, code to operation (R26, R82). -/
def decodeStage5 (c : BitVec 5) : Except DecodeError Instr :=
  match c.toNat with
  | 1 => .ok .aInit
  | 2 => .ok .aPw1
  | 3 => .ok .aSalt
  | 4 => .ok .aPw2
  | 5 => .ok .aFin
  | 6 => .ok .mInit
  | 7 => .ok .mPw
  | 8 => .ok .mSalt
  | 9 => .ok .mCover
  | 10 => .ok .mBits
  | 11 => .ok .mFin
  | 12 => .ok .pInit
  | 13 => .ok .pRep
  | 14 => .ok .pFin
  | 15 => .ok .pFill
  | 16 => .ok .sInit
  | 17 => .ok .sRep
  | 18 => .ok .sFin
  | 19 => .ok .sFill
  | 20 => .ok .rInit
  | 21 => .ok .rF1
  | 22 => .ok .rF2
  | 23 => .ok .rF3
  | 24 => .ok .rF4
  | 25 => .ok .rFin
  | 26 => .ok .ePrefix
  | 27 => .ok .eGroup
  | 28 => .ok .eLast
  | 31 => .error .reservedStage
  | _ => .error .noSequencerOperation

/-- The decoder of the digest port (R83): the code, then for `DIG.FEED` the bytes, lowest index first, 0 to `PW_MAX` of them.
R112 gives the operation up to `max(PW_MAX, 64)` bytes, which is the same from 64 on: the format follows R83 and the operation
R112 (log entry 15, DEDUCED, safe; no step decodes a transaction, the sequencer's operations run theirs). -/
def decodeDigop2 (p : Params) (c : BitVec 2) (data : List Byte) : Except DecodeError Instr :=
  match c.toNat with
  | 1 => if data = [] then .ok .digStart else .error .unexpectedPortData
  | 2 => if data.length ≤ p.pwMax then .ok (.digFeed data) else .error .requestTooLong
  | 3 => if data = [] then .ok .digFinal else .error .unexpectedPortData
  | _ => .error .noPortOperation

/-- The instruction of an encoded form of an engine with parameters `p`, in whichever format it is. -/
def decode (p : Params) : Encoded → Except DecodeError Instr
  | .cmd16 w => decodeCmd16 w
  | .stage5 c => decodeStage5 c
  | .digop2 c data => decodeDigop2 p c data

/-- The word `op << 12 | operand` of a legal command (R80, R98). -/
def cmdWord (op : BitVec 4) (imm : Byte) : Word16 := op ++ 0#4 ++ imm

/-- The encoder, from the tables of R84, R26 and R83. -/
def encode : Instr → Encoded
  | .nop => .cmd16 (cmdWord 0#4 0#8)
  | .clr => .cmd16 (cmdWord 1#4 0#8)
  | .pushp imm => .cmd16 (cmdWord 2#4 imm)
  | .pushs imm => .cmd16 (cmdWord 3#4 imm)
  | .start => .cmd16 (cmdWord 4#4 0#8)
  | .popc => .cmd16 (cmdWord 5#4 0#8)
  | .rdreg sel => .cmd16 (cmdWord 6#4 sel)
  | .illegalOp7 low => .cmd16 (7#4 ++ low)
  | .illegalOp8to15 low => .cmd16 (1#1 ++ low)
  | .aInit => .stage5 1#5
  | .aPw1 => .stage5 2#5
  | .aSalt => .stage5 3#5
  | .aPw2 => .stage5 4#5
  | .aFin => .stage5 5#5
  | .mInit => .stage5 6#5
  | .mPw => .stage5 7#5
  | .mSalt => .stage5 8#5
  | .mCover => .stage5 9#5
  | .mBits => .stage5 10#5
  | .mFin => .stage5 11#5
  | .pInit => .stage5 12#5
  | .pRep => .stage5 13#5
  | .pFin => .stage5 14#5
  | .pFill => .stage5 15#5
  | .sInit => .stage5 16#5
  | .sRep => .stage5 17#5
  | .sFin => .stage5 18#5
  | .sFill => .stage5 19#5
  | .rInit => .stage5 20#5
  | .rF1 => .stage5 21#5
  | .rF2 => .stage5 22#5
  | .rF3 => .stage5 23#5
  | .rF4 => .stage5 24#5
  | .rFin => .stage5 25#5
  | .ePrefix => .stage5 26#5
  | .eGroup => .stage5 27#5
  | .eLast => .stage5 28#5
  | .digStart => .digop2 1#2 []
  | .digFeed bytes => .digop2 2#2 bytes
  | .digFinal => .digop2 3#2 []

/-- The encoded form that the table's numbering of bits gives for a row of `nbits` bits (spec/opcode_table.json): 16 bits are
a command word, 2 bits a digest-port code with no data. A row of 5 bits is a `STAGE` code; so is a word of one whole byte,
since the table does not tell a 5-bit code in a byte from a 2-bit one (log entry 9, DESIGN CHOICE, safe). -/
def tableEncoded (nbits w : Nat) : Option Encoded :=
  if nbits = 16 ∧ w < 2 ^ 16 then some (.cmd16 (BitVec.ofNat 16 w))
  else if (nbits = 5 ∨ nbits = 8) ∧ w < 2 ^ 5 then some (.stage5 (BitVec.ofNat 5 w))
  else if nbits = 2 ∧ w < 2 ^ 2 then some (.digop2 (BitVec.ofNat 2 w) [])
  else none

/-- The instruction the decoder reads from a word laid out as the table numbers its bits. A row carries no request data, so it
is the same for every engine's parameters. -/
def decodeTableWord (nbits w : Nat) : Option Instr :=
  (tableEncoded nbits w).bind fun e => (decode Params.default e).toOption

end Sys2Proof
end

