-- ==== Sys2Proof/Machine/Sha512.lean ====
section
/-! DEFINITION. The function `SHA512` of the digest unit, in full (47_sha512_function.md R200 to R210), and its streaming
form (R213). -/

namespace Sys2Proof.Machine

/-! ## Words and functions -/

/-- `ROTR(n, x)` for `0 < n < 64` (R200). -/
def rotr (n : Nat) (x : Word64) : Word64 := (x >>> n) ||| (x <<< (64 - n))

/-- `SHR(n, x)` (R200). -/
def shr (n : Nat) (x : Word64) : Word64 := x >>> n

/-- `Ch` (R201). -/
def ch (x y z : Word64) : Word64 := (x &&& y) ^^^ (~~~x &&& z)

/-- `Maj` (R201). -/
def maj (x y z : Word64) : Word64 := (x &&& y) ^^^ (x &&& z) ^^^ (y &&& z)

/-- `BSIG0` (R201). -/
def bsig0 (x : Word64) : Word64 := rotr 28 x ^^^ rotr 34 x ^^^ rotr 39 x

/-- `BSIG1` (R201). -/
def bsig1 (x : Word64) : Word64 := rotr 14 x ^^^ rotr 18 x ^^^ rotr 41 x

/-- `SSIG0` (R201). -/
def ssig0 (x : Word64) : Word64 := rotr 1 x ^^^ rotr 8 x ^^^ shr 7 x

/-- `SSIG1` (R201). -/
def ssig1 (x : Word64) : Word64 := rotr 19 x ^^^ rotr 61 x ^^^ shr 6 x

/-- The eight words of a chaining value (`H[0]` to `H[7]`), and of the working variables `a` to `h` (R207). -/
structure Chain where
  a : Word64
  b : Word64
  c : Word64
  d : Word64
  e : Word64
  f : Word64
  g : Word64
  h : Word64
  deriving DecidableEq, Repr

/-- The initial hash value `IV` (R202). -/
def initialChain : Chain where
  a := 0x6a09e667f3bcc908
  b := 0xbb67ae8584caa73b
  c := 0x3c6ef372fe94f82b
  d := 0xa54ff53a5f1d36f1
  e := 0x510e527fade682d1
  f := 0x9b05688c2b3e6c1f
  g := 0x1f83d9abfb41bd6b
  h := 0x5be0cd19137e2179

/-- The round constants `K[0]` to `K[79]` (R203). -/
def roundConstants : List (BitVec 64) :=
  [0x428a2f98d728ae22#64, 0x7137449123ef65cd#64,
   0xb5c0fbcfec4d3b2f#64, 0xe9b5dba58189dbbc#64,
   0x3956c25bf348b538#64, 0x59f111f1b605d019#64,
   0x923f82a4af194f9b#64, 0xab1c5ed5da6d8118#64,
   0xd807aa98a3030242#64, 0x12835b0145706fbe#64,
   0x243185be4ee4b28c#64, 0x550c7dc3d5ffb4e2#64,
   0x72be5d74f27b896f#64, 0x80deb1fe3b1696b1#64,
   0x9bdc06a725c71235#64, 0xc19bf174cf692694#64] ++
  [0xe49b69c19ef14ad2#64, 0xefbe4786384f25e3#64,
   0x0fc19dc68b8cd5b5#64, 0x240ca1cc77ac9c65#64,
   0x2de92c6f592b0275#64, 0x4a7484aa6ea6e483#64,
   0x5cb0a9dcbd41fbd4#64, 0x76f988da831153b5#64,
   0x983e5152ee66dfab#64, 0xa831c66d2db43210#64,
   0xb00327c898fb213f#64, 0xbf597fc7beef0ee4#64,
   0xc6e00bf33da88fc2#64, 0xd5a79147930aa725#64,
   0x06ca6351e003826f#64, 0x142929670a0e6e70#64] ++
  [0x27b70a8546d22ffc#64, 0x2e1b21385c26c926#64,
   0x4d2c6dfc5ac42aed#64, 0x53380d139d95b3df#64,
   0x650a73548baf63de#64, 0x766a0abb3c77b2a8#64,
   0x81c2c92e47edaee6#64, 0x92722c851482353b#64,
   0xa2bfe8a14cf10364#64, 0xa81a664bbc423001#64,
   0xc24b8b70d0f89791#64, 0xc76c51a30654be30#64,
   0xd192e819d6ef5218#64, 0xd69906245565a910#64,
   0xf40e35855771202a#64, 0x106aa07032bbd1b8#64] ++
  [0x19a4c116b8d2d0c8#64, 0x1e376c085141ab53#64,
   0x2748774cdf8eeb99#64, 0x34b0bcb5e19b48a8#64,
   0x391c0cb3c5c95a63#64, 0x4ed8aa4ae3418acb#64,
   0x5b9cca4f7763e373#64, 0x682e6ff3d6b2b8a3#64,
   0x748f82ee5defb2fc#64, 0x78a5636f43172f60#64,
   0x84c87814a1f0ab72#64, 0x8cc702081a6439ec#64,
   0x90befffa23631e28#64, 0xa4506cebde82bde9#64,
   0xbef9a3f7b2c67915#64, 0xc67178f2e372532b#64] ++
  [0xca273eceea26619c#64, 0xd186b8c721c0c207#64,
   0xeada7dd6cde0eb1e#64, 0xf57d4f7fee6ed178#64,
   0x06f067aa72176fba#64, 0x0a637dc5a2c898a6#64,
   0x113f9804bef90dae#64, 0x1b710b35131c471b#64,
   0x28db77f523047d84#64, 0x32caab7b40c72493#64,
   0x3c9ebe0a15c9bebc#64, 0x431d67c49c100d4c#64,
   0x4cc5d4becb3e42b6#64, 0x597f299cfc657e2a#64,
   0x5fcb6fab3ad6faec#64, 0x6c44198c4a475817#64]

/-! ## Padding and parsing -/

/-- The number of zero bytes of the padding of an `n`-byte message: the least `k` with `n + 1 + k` congruent to 112 modulo
128 (R204). -/
def padZeros (n : Nat) : Nat := (239 - n % 128) % 128

/-- `v` as `n` bytes, most significant byte first. -/
def bytesBE (v n : Nat) : List Byte := (List.range n).map fun j => BitVec.ofNat 8 (v >>> (8 * (n - 1 - j)))

/-- What follows the last bytes of a message of `n` bytes: `80`, the zero bytes, and `8 * n` as 16 bytes (R204). -/
def padding (n : Nat) : List Byte := 0x80#8 :: (List.replicate (padZeros n) 0#8 ++ bytesBE (8 * n) 16)

/-- `Pad(m)` (R204). -/
def pad (m : List Byte) : List Byte := m ++ padding m.length

/-- The first `n` pieces of `size` bytes of a byte sequence. -/
def pieces (size : Nat) : Nat → List Byte → List (List Byte)
  | 0, _ => []
  | n + 1, bs => bs.take size :: pieces size n (bs.drop size)

/-- The blocks `B(1)` to `B(N)` of a padded message (R205). -/
def blocks (bs : List Byte) : List (List Byte) := pieces 128 (bs.length / 128) bs

/-- Bytes as one word, most significant byte first (R205). -/
def wordBE (bs : List Byte) : Word64 := bs.foldl (fun w b => (w <<< 8) ||| b.setWidth 64) 0#64

/-- The 16 words `M[0]` to `M[15]` of a block (R205). -/
def blockWords (blk : List Byte) : List Word64 := (pieces 8 16 blk).map wordBE

/-! ## The hash computation -/

/-- `W[t]` of R206 for `t` the number of words there are. -/
def nextScheduleWord (ws : List Word64) : Word64 :=
  let t := ws.length
  ssig1 (ws.getD (t - 2) 0#64) + ws.getD (t - 7) 0#64 + ssig0 (ws.getD (t - 15) 0#64) + ws.getD (t - 16) 0#64

/-- `n` more words of a message schedule (R206). -/
def extendSchedule : Nat → List Word64 → List Word64
  | 0, ws => ws
  | n + 1, ws => extendSchedule n (ws ++ [nextScheduleWord ws])

/-- The message schedule of one block, 80 words (R206). -/
def schedule (blk : List Byte) : List Word64 := extendSchedule 64 (blockWords blk)

/-- One `t` of R207, with `(K[t], W[t])`; the eight assignments use the values from before it. -/
def compressRound (v : Chain) (kw : Word64 × Word64) : Chain :=
  let t1 := v.h + bsig1 v.e + ch v.e v.f v.g + kw.1 + kw.2
  let t2 := bsig0 v.a + maj v.a v.b v.c
  { a := t1 + t2, b := v.a, c := v.b, d := v.c, e := v.d + t1, f := v.e, g := v.f, h := v.g }

/-- `Compress(H, B)` (R207). -/
def compress (hv : Chain) (blk : List Byte) : Chain :=
  let v := (roundConstants.zip (schedule blk)).foldl compressRound hv
  { a := hv.a + v.a, b := hv.b + v.b, c := hv.c + v.c, d := hv.d + v.d,
    e := hv.e + v.e, f := hv.f + v.f, g := hv.g + v.g, h := hv.h + v.h }

/-- The chaining over the blocks of a byte sequence, from a chaining value (R208). -/
def chainFrom (hv : Chain) (bs : List Byte) : Chain := (blocks bs).foldl compress hv

/-- The eight words in order. -/
def Chain.words (v : Chain) : List Word64 := [v.a, v.b, v.c, v.d, v.e, v.f, v.g, v.h]

/-- The digest of a final chaining value (R210): byte `k` is byte `k mod 8`, from the most significant, of word `k div 8`. -/
def Chain.digest (v : Chain) : Digest :=
  Vector.ofFn fun k => ((v.words.getD (k.val / 8) 0#64) >>> (8 * (7 - k.val % 8))).setWidth 8

/-- `SHA512(m)` (00_scope.md R10; 47_sha512_function.md R208, R210). The engine's parameter `SHA512`, here the standard one
(92_eei_decisions.md D20; DESIGN CHOICE, safe, log entry 4). -/
def sha512 (m : List Byte) : Digest := (chainFrom initialChain (pad m)).digest

/-- `N(n)`, the number of blocks an `n`-byte message pads to (R212). -/
def blockCount (n : Nat) : Nat := (n + 17 + 127) / 128

/-! ## The streaming form (R213) -/

/-- The context a digest unit keeps (R213): the chaining value, the bytes not yet compressed, the count of bytes fed (a
128-bit number there). -/
structure Stream where
  chain : Chain
  buf : List Byte
  total : BitVec 128
  deriving DecidableEq, Repr

/-- `DIG.START` on the streaming context (R213). -/
def streamStart : Stream := { chain := initialChain, buf := [], total := 0#128 }

/-- `DIG.FEED(x)` on the streaming context (R213): whole blocks of the buffer are compressed and removed. -/
def streamFeed (c : Stream) (x : List Byte) : Stream :=
  let buf := c.buf ++ x
  { chain := chainFrom c.chain buf
    buf := buf.drop (128 * (buf.length / 128))
    total := c.total + BitVec.ofNat 128 x.length }

/-- `DIG.FINAL` on the streaming context (R213): the padding computed from `total`, the blocks that remain, the digest. -/
def streamFinal (c : Stream) : Digest :=
  (chainFrom c.chain (c.buf ++ padding c.total.toNat)).digest

end Sys2Proof.Machine
end

