-- ==== Sys2Proof/Machine/Stages.lean ====
section
/-! DEFINITION. The `STAGE` codes of 10_state.md R26, by name. Code 31 is reserved and has no name (R27). -/

namespace Sys2Proof.Machine

/-- `IDLE` -/
@[simp] abbrev Stage.idle : BitVec 5 := 0#5
/-- `A_INIT` -/
@[simp] abbrev Stage.aInit : BitVec 5 := 1#5
/-- `A_PW1` -/
@[simp] abbrev Stage.aPw1 : BitVec 5 := 2#5
/-- `A_SALT` -/
@[simp] abbrev Stage.aSalt : BitVec 5 := 3#5
/-- `A_PW2` -/
@[simp] abbrev Stage.aPw2 : BitVec 5 := 4#5
/-- `A_FIN` -/
@[simp] abbrev Stage.aFin : BitVec 5 := 5#5
/-- `M_INIT` -/
@[simp] abbrev Stage.mInit : BitVec 5 := 6#5
/-- `M_PW` -/
@[simp] abbrev Stage.mPw : BitVec 5 := 7#5
/-- `M_SALT` -/
@[simp] abbrev Stage.mSalt : BitVec 5 := 8#5
/-- `M_COVER` -/
@[simp] abbrev Stage.mCover : BitVec 5 := 9#5
/-- `M_BITS` -/
@[simp] abbrev Stage.mBits : BitVec 5 := 10#5
/-- `M_FIN` -/
@[simp] abbrev Stage.mFin : BitVec 5 := 11#5
/-- `P_INIT` -/
@[simp] abbrev Stage.pInit : BitVec 5 := 12#5
/-- `P_REP` -/
@[simp] abbrev Stage.pRep : BitVec 5 := 13#5
/-- `P_FIN` -/
@[simp] abbrev Stage.pFin : BitVec 5 := 14#5
/-- `P_FILL` -/
@[simp] abbrev Stage.pFill : BitVec 5 := 15#5
/-- `S_INIT` -/
@[simp] abbrev Stage.sInit : BitVec 5 := 16#5
/-- `S_REP` -/
@[simp] abbrev Stage.sRep : BitVec 5 := 17#5
/-- `S_FIN` -/
@[simp] abbrev Stage.sFin : BitVec 5 := 18#5
/-- `S_FILL` -/
@[simp] abbrev Stage.sFill : BitVec 5 := 19#5
/-- `R_INIT` -/
@[simp] abbrev Stage.rInit : BitVec 5 := 20#5
/-- `R_F1` -/
@[simp] abbrev Stage.rF1 : BitVec 5 := 21#5
/-- `R_F2` -/
@[simp] abbrev Stage.rF2 : BitVec 5 := 22#5
/-- `R_F3` -/
@[simp] abbrev Stage.rF3 : BitVec 5 := 23#5
/-- `R_F4` -/
@[simp] abbrev Stage.rF4 : BitVec 5 := 24#5
/-- `R_FIN` -/
@[simp] abbrev Stage.rFin : BitVec 5 := 25#5
/-- `E_PREFIX` -/
@[simp] abbrev Stage.ePrefix : BitVec 5 := 26#5
/-- `E_GROUP` -/
@[simp] abbrev Stage.eGroup : BitVec 5 := 27#5
/-- `E_LAST` -/
@[simp] abbrev Stage.eLast : BitVec 5 := 28#5
/-- `DONE` -/
@[simp] abbrev Stage.done : BitVec 5 := 29#5
/-- `FAULT` -/
@[simp] abbrev Stage.fault : BitVec 5 := 30#5

end Sys2Proof.Machine
end

