-- ==== Sys2Proof/Machine/State.lean ====
section
/-! DEFINITION. The state of the machine as plain data: the engine's complete state (10_state.md R20), the parameters of the
engine (R21), and the inputs and outputs of its ports. -/

namespace Sys2Proof.Machine

/-- The contents of one byte space (20_memory.md R60): (offset, byte) pairs in canonical form. An offset that is not listed
holds 0x00, the reset contents of every buffer (10_state.md R39). -/
abbrev Memory := List Host.Cell

/-- The canonical form: offsets strictly rising, and no listed byte equal to what an unlisted offset holds. -/
abbrev Memory.wf (m : Memory) : Prop :=
  m.Pairwise (fun a b => a.1 < b.1) ∧ ∀ c ∈ m, c.2 ≠ 0#8

/-- The nine internal byte spaces (20_memory.md R60). A space is named, never computed. -/
inductive Space where
  | pw | salt | alt | result | dp | ds | p | s | out
  deriving DecidableEq, Repr

/-- `CTX`, the digest context (10_state.md R33): whether it is open, and the bytes fed since it was started. -/
structure DigestCtx where
  isOpen : Bool
  msg : List Byte
  deriving DecidableEq, Repr

/-- The complete state of one engine: the fields of the table of 10_state.md R20 and nothing else. `CNT`, `LSH` and `PWLEN`,
whose widths depend on `PW_MAX`, are natural numbers (92_eei_decisions.md D26; log entry 2, DESIGN CHOICE, safe). -/
structure Engine where
  /-- `ALT`, `RESULT`, `DP`, `DS` (R22) -/
  alt : Digest
  result : Digest
  dp : Digest
  ds : Digest
  /-- `STAGE` (R25) -/
  stage : BitVec 5
  /-- `CNT`, `LSH`, `R`, `G` (R28) -/
  cnt : Nat
  lsh : Nat
  r : BitVec 13
  g : BitVec 5
  /-- `PW`, `PWLEN` (R29) -/
  pw : Memory
  pwLen : Nat
  /-- `SALT`, `SALTLEN` (R30) -/
  salt : Memory
  saltLen : BitVec 5
  /-- `P`, `S` (R31) -/
  pBuf : Memory
  sBuf : Memory
  /-- `OUT`, `OUTLEN`, `OUTPTR` (R32) -/
  out : Memory
  outLen : BitVec 7
  outPtr : BitVec 7
  /-- `CTX` (R33) -/
  ctx : DigestCtx
  /-- `CMDERR`, `REJCODE`, `ERRCODE` (R35) -/
  cmdErr : Bool
  rejCode : BitVec 3
  errCode : BitVec 2
  deriving DecidableEq, Repr

/-- Every piece of state after `HardReset` (10_state.md R39, 70_reset_and_hazards.md R251): zero. -/
def Engine.reset : Engine where
  alt := Vector.replicate 64 0#8
  result := Vector.replicate 64 0#8
  dp := Vector.replicate 64 0#8
  ds := Vector.replicate 64 0#8
  stage := 0#5
  cnt := 0
  lsh := 0
  r := 0#13
  g := 0#5
  pw := []
  pwLen := 0
  salt := []
  saltLen := 0#5
  pBuf := []
  sBuf := []
  out := []
  outLen := 0#7
  outPtr := 0#7
  ctx := { isOpen := false, msg := [] }
  cmdErr := false
  rejCode := 0#3
  errCode := 0#2

/-- A step that an agent takes (00_scope.md R11). -/
inductive Event where
  /-- The host presents a command word, `HostCmd(w)`. -/
  | hostCmd (word : Word16)
  /-- The sequencer has the turn, `SeqStep`; nothing happens where no operation is selected. -/
  | seqTurn
  /-- An event on the pin `rst`, `HardReset`. -/
  | hardReset
  deriving DecidableEq, Repr

/-- The state of the machine: the engine, and what the step relation takes from outside it. -/
structure State where
  /-- The complete state of the engine (R20). -/
  eng : Engine
  /-- The parameters (R21); written by no step (log entry 3). -/
  cfg : Params
  /-- The agents' steps still to happen, next first: the interleaving as data (R11, U10; log entry 1). -/
  agenda : List Event
  /-- The digest unit's answers to the coming digest-port operations, next first, `true` for `fail` (R114; log entry 5). -/
  answers : List Bool
  /-- The number of digest-port operations performed; no part of the engine (R239; log entry 5). -/
  digCount : Nat
  /-- The responses the host has received, oldest first (R81; log entry 6). -/
  responses : List Word16
  /-- What a `DIG.FINAL` performed as an instruction of its own returned (R113; log entry 7). -/
  digReply : Option Digest
  deriving DecidableEq, Repr

/-- The machine right after reset, for given parameters: every field of the engine at the value of R39, nothing presented at
the ports. -/
def State.resetWith (cfg : Params) : State where
  eng := Engine.reset
  cfg := cfg
  agenda := []
  answers := []
  digCount := 0
  responses := []
  digReply := none

/-- The machine right after reset (R39, R250), with the parameters of `Params.default` (log entry 3). -/
def State.reset : State := State.resetWith Params.default

/-- Why the machine stops. The engine's own rejections and fatal faults (60_exceptions.md) are next states, not these. -/
inductive Fault where
  /-- Raised by `DIG.FEED` and `DIG.FINAL` where `CTX.OPEN = 0`: R112 and R113 require it to be 1 and give no effect otherwise
  (93_implementation_defined.md U14: stuck). No state of a run meets it (R38 item 3). Safe. -/
  | digestPortClosed
  /-- Raised by `MemRead` and `MemWrite` where the range leaves its space: R61 requires `off + n <= size` and gives no effect
  otherwise. No state of a run meets it (R38 item 1). Safe. -/
  | outOfSpace (space : Space)
  deriving DecidableEq, Repr

/-- Why an instruction has no meaning here. -/
inductive Refusal where
  /-- Raised by `exec` for an instruction that is not modelled yet: none is left. Safe. -/
  | notModelled (mnemonic : String)
  deriving DecidableEq, Repr

/-- The causes of a rejection (60_exceptions.md R222). -/
inductive RejCause where
  | illegalOpcode | reservedField | wrongState | outEmpty | badSelector | faulted
  deriving DecidableEq, Repr

/-- The causes of a fatal fault (60_exceptions.md R224). -/
inductive FaultCause where
  | pwOverflow | digestFail
  deriving DecidableEq, Repr

/-- The outcome of a step or of an instruction. -/
abbrev Out := Host.Outcome State Fault Refusal

end Sys2Proof.Machine
end

