-- ==== Sys2Proof/Machine/Ops.lean ====
section
/-! DEFINITION. The named operations over the state: the byte spaces, the response port, rejection, fault entry (taking the
engine's one exception) and the return from it, zeroisation, and the digest port. -/

namespace Sys2Proof.Machine

/-! ## One byte space (20_memory.md R60, R61) -/

/-- The byte at an offset; an unlisted offset holds 0x00 (R39). -/
def Memory.read : Memory → Nat → Byte
  | [], _ => 0#8
  | (k, b) :: m, a => if k = a then b else Memory.read m a

/-- The store of one byte, in canonical form: storing 0x00 removes the entry. -/
def Memory.write : Memory → Nat → Byte → Memory
  | [], a, b => if b = 0#8 then [] else [(a, b)]
  | (k, c) :: m, a, b =>
    if a < k then (if b = 0#8 then (k, c) :: m else (a, b) :: (k, c) :: m)
    else if a = k then (if b = 0#8 then m else (a, b) :: m)
    else (k, c) :: Memory.write m a b

/-- `space[off + j] = v[j]` for every index of `v`, every other byte as it was (R61). -/
def Memory.writeRange : Memory → Nat → List Byte → Memory
  | m, _, [] => m
  | m, off, b :: v => Memory.writeRange (m.write off b) (off + 1) v

/-- The same over a digest register: bytes `off` up to the length of `v` replaced (R61). -/
def digestWrite (d : Digest) (off : Nat) (v : List Byte) : Digest :=
  Vector.ofFn fun k => if off ≤ k.val ∧ k.val < off + v.length then v.getD (k.val - off) 0#8 else d[k]

/-- The size in bytes of each space (R60). -/
def spaceSize (p : Params) : Space → Nat
  | .pw | .p => p.pwMax
  | .salt | .s => Config.saltMax
  | .alt | .result | .dp | .ds => 64
  | .out => Config.outMax

/-- Byte `k` of a space. Beyond the space there is none: the operations below ask first. -/
def Engine.byteAt (e : Engine) : Space → Nat → Byte
  | .pw, k => e.pw.read k
  | .salt, k => e.salt.read k
  | .alt, k => e.alt.toList.getD k 0#8
  | .result, k => e.result.toList.getD k 0#8
  | .dp, k => e.dp.toList.getD k 0#8
  | .ds, k => e.ds.toList.getD k 0#8
  | .p, k => e.pBuf.read k
  | .s, k => e.sBuf.read k
  | .out, k => e.out.read k

/-- The bytes `space[off .. off + n)` (R61). -/
def Engine.bytes (e : Engine) (sp : Space) (off n : Nat) : List Byte :=
  (List.range n).map fun j => e.byteAt sp (off + j)

/-- The bytes of `v` stored from `off` on in one space (R61). -/
def Engine.store (e : Engine) (sp : Space) (off : Nat) (v : List Byte) : Engine :=
  match sp with
  | .pw => { e with pw := e.pw.writeRange off v }
  | .salt => { e with salt := e.salt.writeRange off v }
  | .alt => { e with alt := digestWrite e.alt off v }
  | .result => { e with result := digestWrite e.result off v }
  | .dp => { e with dp := digestWrite e.dp off v }
  | .ds => { e with ds := digestWrite e.ds off v }
  | .p => { e with pBuf := e.pBuf.writeRange off v }
  | .s => { e with sBuf := e.sBuf.writeRange off v }
  | .out => { e with out := e.out.writeRange off v }

/-! ## Updates of the state -/

/-- The state with another engine state. -/
def State.setEng (s : State) (e : Engine) : State := { s with eng := e }

/-- The control transfer `STAGE <- c` (00_scope.md R9, 10_state.md R25). -/
def State.setStage (s : State) (c : BitVec 5) : State := s.setEng { s.eng with stage := c }

/-- The digest context `CTX <- c` (10_state.md R33). -/
def State.setCtx (s : State) (c : DigestCtx) : State := s.setEng { s.eng with ctx := c }

/-- The response word of a command goes to the host (30_encoding.md R81). -/
def State.respond (s : State) (w : Word16) : State := { s with responses := s.responses ++ [w] }

/-- `MemRead(space, off, n)` (R61), its bytes handed on to `k`; a range that leaves the space stops the machine. -/
def memRead (sp : Space) (off n : Nat) (s : State) (k : List Byte → Out) : Out :=
  if off + n ≤ spaceSize s.cfg sp then k (s.eng.bytes sp off n) else .fault (.outOfSpace sp)

/-- `MemWrite(space, off, len(v), v)` (R61), the state after it handed on to `k`; a range that leaves the space stops the
machine. -/
def memWrite (sp : Space) (off : Nat) (v : List Byte) (s : State) (k : State → Out) : Out :=
  if off + v.length ≤ spaceSize s.cfg sp then k (s.setEng (s.eng.store sp off v)) else .fault (.outOfSpace sp)

/-! ## Responses and rejections -/

/-- `ack(d)`, the response of a command that was performed (30_encoding.md R81): `0x8000 | d`. -/
def ackWord (d : Byte) : Word16 := 0x8000#16 ||| d.setWidth 16

/-- The cause codes of a rejection (30_encoding.md R88). -/
def RejCause.code : RejCause → BitVec 3
  | .illegalOpcode => 1#3
  | .reservedField => 2#3
  | .wrongState => 3#3
  | .outEmpty => 4#3
  | .badSelector => 5#3
  | .faulted => 7#3

/-- The cause codes of a fatal fault (30_encoding.md R89). -/
def FaultCause.code : FaultCause → BitVec 2
  | .pwOverflow => 1#2
  | .digestFail => 2#2

/-- The response of a rejection with cause `c` (30_encoding.md R81): `c << 12`. -/
def rejWord (c : RejCause) : Word16 := c.code.setWidth 16 <<< 12

/-- What a rejection writes (60_exceptions.md R223): `CMDERR <- 1`, `REJCODE <- c`. -/
def Engine.noteRejection (e : Engine) (c : RejCause) : Engine := { e with cmdErr := true, rejCode := c.code }

/-- `reject(c)` (60_exceptions.md R223): the two error registers and the response, nothing else. -/
def State.reject (s : State) (c : RejCause) : State := (s.setEng (s.eng.noteRejection c)).respond (rejWord c)

/-! ## Fault entry, and leaving it -/

/-- `FaultEntry(c)` (60_exceptions.md R227): every buffer, register, counter and the context to zero, the cause in `ERRCODE`,
`STAGE <- FAULT`; `CMDERR` and `REJCODE` are kept. No program counter or status is saved (R220, R225). -/
def Engine.faultEntry (e : Engine) (c : FaultCause) : Engine :=
  { Engine.reset with
    errCode := c.code
    stage := Stage.fault
    cmdErr := e.cmdErr
    rejCode := e.rejCode }

/-- `raise Fault(c)` (60_exceptions.md R227): the engine takes its one exception. -/
def State.raiseFault (s : State) (c : FaultCause) : State := s.setEng (s.eng.faultEntry c)

/-- Every piece of the engine's state to its reset value: `HardReset` (70_reset_and_hazards.md R250), and what an accepted
`CLR` does (46_host_commands.md R182), the one command that leaves `FAULT` (60_exceptions.md R229). -/
def State.clearEngine (s : State) : State := s.setEng Engine.reset

/-- `ZeroiseWorking()` (45_encoding_stage.md R174): everything to zero but `OUT`, `OUTLEN`, `OUTPTR`, `CMDERR`, `REJCODE`,
`ERRCODE` and `STAGE`. -/
def Engine.zeroiseWorking (e : Engine) : Engine :=
  { Engine.reset with
    stage := e.stage
    out := e.out
    outLen := e.outLen
    outPtr := e.outPtr
    cmdErr := e.cmdErr
    rejCode := e.rejCode
    errCode := e.errCode }

/-! ## The digest port (40_digest_port.md) -/

/-- `DigestAnswer()` for the digest-port operation `k` operations ahead (R114): always ok when `DIGEST_CAN_FAIL` is false; else
the environment's answer, a free value where its list does not give one (log entry 5). -/
def State.failsAt (s : State) (k : Nat) : Bool :=
  s.cfg.digestCanFail && (s.answers[k]?).getD (Config.freeAnswer (s.digCount + k))

/-- The draw of one answer: the next operation has the next answer. -/
def State.drawAnswer (s : State) : State :=
  { s with answers := s.answers.tail, digCount := s.digCount + 1 }

/-- The part the three operations share (R111 to R114): draw the answer; `fail` raises `Fault(DIGEST_FAIL)` in place of
everything else, `ok` goes on. -/
def digAnswered (s : State) (k : State → Out) : Out :=
  if s.failsAt 0 then .next (s.drawAnswer.raiseFault .digestFail) else k s.drawAnswer

/-- `DIG.START` (R111): an empty context is opened; what was fed to an open one is discarded. -/
def digStart (s : State) (k : State → Out) : Out :=
  digAnswered s fun s => k (s.setCtx { isOpen := true, msg := [] })

/-- `DIG.FEED(x)` (R112): `x` is appended to the message of the open context. An empty `x` is a transaction too (R117). -/
def digFeed (x : List Byte) (s : State) (k : State → Out) : Out :=
  if s.eng.ctx.isOpen then
    digAnswered s fun s => k (s.setCtx { isOpen := true, msg := s.eng.ctx.msg ++ x })
  else .fault .digestPortClosed

/-- `DIG.FINAL` (R113): the digest of the message is handed on, the context is closed and empty. -/
def digFinal (s : State) (k : Digest → State → Out) : Out :=
  if s.eng.ctx.isOpen then
    digAnswered s fun s => k (sha512 s.eng.ctx.msg) (s.setCtx { isOpen := false, msg := [] })
  else .fault .digestPortClosed

end Sys2Proof.Machine
end

