-- ==== Sys2Proof/Machine/Flags.lean ====
section
/-! DEFINITION. The classes of `STAGE` (10_state.md R26), the `STATUS` register and its flags (R34), the output pins (R37), and
which command is accepted in which class (46_host_commands.md R189). -/

namespace Sys2Proof.Machine

/-- Class IDLE: `STAGE = 0` (R26). -/
def Engine.isIdle (e : Engine) : Bool := e.stage == Stage.idle

/-- Class BUSY: `1 <= STAGE <= 28` (R26). -/
def Engine.isBusy (e : Engine) : Bool := Stage.aInit.ule e.stage && e.stage.ule Stage.eLast

/-- Class DONE: `STAGE = 29` (R26). -/
def Engine.isDone (e : Engine) : Bool := e.stage == Stage.done

/-- Class FAULT: `STAGE = 30` (R26). -/
def Engine.isFault (e : Engine) : Bool := e.stage == Stage.fault

/-- `STATUS.OUTAV` (R34): output is left to be read. -/
def Engine.outAv (e : Engine) : Bool := e.isDone && e.outPtr.ult e.outLen

/-- `STATUS` (R34): bits 7:5 zero, then `OUTAV`, `CMDERR`, `FAULT`, `DONE`, `BUSY`. A view; it holds no state. -/
def Engine.status (e : Engine) : Byte :=
  0#3 ++ BitVec.ofBool e.outAv ++ BitVec.ofBool e.cmdErr ++ BitVec.ofBool e.isFault ++ BitVec.ofBool e.isDone
    ++ BitVec.ofBool e.isBusy

/-- The level of the pin `done` (R37). -/
def Engine.donePin (e : Engine) : Bool := e.status.getLsbD 1

/-- The level of the pin `fault` (R37). -/
def Engine.faultPin (e : Engine) : Bool := e.status.getLsbD 2

/-- The classes in which `CLR` is accepted (R182, R189). -/
def Engine.acceptsClr (e : Engine) : Bool := e.isIdle || e.isDone || e.isFault

end Sys2Proof.Machine
end

