-- ==== Sys2Proof/Machine/Operands.lean ====
section
/-! DEFINITION. What the instructions read: the register a selector names (10_state.md R36), and the ranges of the byte spaces
that the sequencer operations read (20_memory.md R64). -/

namespace Sys2Proof.Machine

/-- The register byte a selector names (R36); none for a reserved selector. Multi-byte values have the low byte at the low
selector. -/
def Engine.selected (e : Engine) (sel : Byte) : Option Byte :=
  match sel.toNat with
  | 0x00 => some e.status
  | 0x01 => some (e.errCode.setWidth 8)
  | 0x02 => some (e.rejCode.setWidth 8)
  | 0x03 => some (e.stage.setWidth 8)
  | 0x04 => some (e.saltLen.setWidth 8)
  | 0x05 => some (e.outLen.setWidth 8)
  | 0x06 => some (e.outPtr.setWidth 8)
  | 0x07 => some (e.r.extractLsb' 0 8)
  | 0x08 => some ((e.r.extractLsb' 8 5).setWidth 8)
  | 0x10 => some ((BitVec.ofNat 32 e.pwLen).extractLsb' 0 8)
  | 0x11 => some ((BitVec.ofNat 32 e.pwLen).extractLsb' 8 8)
  | 0x12 => some ((BitVec.ofNat 32 e.pwLen).extractLsb' 16 8)
  | 0x13 => some ((BitVec.ofNat 32 e.pwLen).extractLsb' 24 8)
  | _ => none

/-- `pw`, the password `PW[0 .. PWLEN)` (R29, R64). -/
def readPw (s : State) (k : List Byte → Out) : Out := memRead .pw 0 s.eng.pwLen s k

/-- `salt`, the salt `SALT[0 .. SALTLEN)` (R30, R64). -/
def readSalt (s : State) (k : List Byte → Out) : Out := memRead .salt 0 s.eng.saltLen.toNat s k

/-- `P[0 .. PWLEN)`, the P-sequence (R31, R64). -/
def readP (s : State) (k : List Byte → Out) : Out := memRead .p 0 s.eng.pwLen s k

/-- `S[0 .. SALTLEN)`, the S-sequence (R31, R64). -/
def readS (s : State) (k : List Byte → Out) : Out := memRead .s 0 s.eng.saltLen.toNat s k

/-- `ALT[0 .. n)` (R64). -/
def readAlt (n : Nat) (s : State) (k : List Byte → Out) : Out := memRead .alt 0 n s k

/-- `RESULT[0 .. 64)` (R64). -/
def readResult (s : State) (k : List Byte → Out) : Out := memRead .result 0 64 s k

/-- Feed the password in one transaction (R64). -/
def feedPw (s : State) (k : State → Out) : Out := readPw s fun x => digFeed x s k

/-- Feed the salt in one transaction (R64). -/
def feedSalt (s : State) (k : State → Out) : Out := readSalt s fun x => digFeed x s k

/-- Feed the P-sequence in one transaction (R64). -/
def feedP (s : State) (k : State → Out) : Out := readP s fun x => digFeed x s k

/-- Feed the S-sequence in one transaction (R64). -/
def feedS (s : State) (k : State → Out) : Out := readS s fun x => digFeed x s k

/-- Feed the first `n` bytes of `ALT` in one transaction (R64). -/
def feedAlt (n : Nat) (s : State) (k : State → Out) : Out := readAlt n s fun x => digFeed x s k

/-- Feed `RESULT` in one transaction (R64). -/
def feedResult (s : State) (k : State → Out) : Out := readResult s fun x => digFeed x s k

end Sys2Proof.Machine
end

