-- ==== Sys2Proof/Machine/AlternateSum.lean ====
section
/-! DEFINITION. The alternate-sum stage (41_alternate_sum.md R121 to R125), `STAGE` codes 1 to 5. -/

namespace Sys2Proof.Machine

/-- `A_INIT` (R121): start the alternate-sum context. -/
def execAInit (s : State) : Out := digStart s fun s => .next (s.setStage Stage.aPw1)

/-- `A_PW1` (R122): feed the password, first time. -/
def execAPw1 (s : State) : Out := feedPw s fun s => .next (s.setStage Stage.aSalt)

/-- `A_SALT` (R123): feed the salt. -/
def execASalt (s : State) : Out := feedSalt s fun s => .next (s.setStage Stage.aPw2)

/-- `A_PW2` (R124): feed the password, second time. -/
def execAPw2 (s : State) : Out := feedPw s fun s => .next (s.setStage Stage.aFin)

/-- `A_FIN` (R125): take the alternate sum. -/
def execAFin (s : State) : Out := digFinal s fun d s => .next (s.setEng { s.eng with alt := d, stage := Stage.mInit })

end Sys2Proof.Machine
end

