-- ==== Sys2Proof/Machine/DigestPort.lean ====
section
/-! DEFINITION. The three digest-port operations as instructions of their own (40_digest_port.md R111 to R113). In a run the
sequencer performs them inside its own operations (R110); these are the same shared operations with nothing after them.
What a `DIG.FINAL` returns is kept in `digReply` (log entry 7, DESIGN CHOICE, safe). -/

namespace Sys2Proof.Machine

/-- `DIG.START` (R111). -/
def execDigStart (s : State) : Out := digStart { s with digReply := none } fun s => .next s

/-- `DIG.FEED(x)` (R112). -/
def execDigFeed (bytes : List Byte) (s : State) : Out := digFeed bytes { s with digReply := none } fun s => .next s

/-- `DIG.FINAL` (R113). -/
def execDigFinal (s : State) : Out :=
  digFinal { s with digReply := none } fun d s => .next { s with digReply := some d }

end Sys2Proof.Machine
end

