-- ==== Sys2Proof/Machine/Encoding.lean ====
section
/-! DEFINITION. The data encodings (30_encoding.md R90 to R97): the crypt alphabet, the 6-bit groups, the permutation table and
the encoded digest. -/

namespace Sys2Proof.Machine

/-- `n` character codes in ascending order from `c` on. -/
def charRun (c : Byte) (n : Nat) : List Byte := (List.range n).map fun j => c + BitVec.ofNat 8 j

/-- The crypt alphabet `./0-9A-Za-z` in ASCII codes (R92, R93). -/
def alphabet : List Byte := [0x2E#8, 0x2F#8] ++ charRun 0x30#8 10 ++ charRun 0x41#8 26 ++ charRun 0x61#8 26

/-- `Alpha(i)` (R93). -/
def alpha (i : BitVec 6) : Byte := alphabet.getD i.toNat 0#8

/-- `Enc(v, n)` (R94): the `n` characters that spell the low `6n` bits of `v`, low 6 bits first. -/
def enc (v : BitVec 24) (n : Nat) : List Byte := (List.range n).map fun j => alpha (v.extractLsb' (6 * j) 6)

/-- The permutation table (R95), data: row `g` is the triple `(a, b, c)`. -/
def permTable : List (Fin 64 × Fin 64 × Fin 64) :=
  [(42, 21, 0), (1, 43, 22), (23, 2, 44), (45, 24, 3), (4, 46, 25), (26, 5, 47), (48, 27, 6)] ++
  [(7, 49, 28), (29, 8, 50), (51, 30, 9), (10, 52, 31), (32, 11, 53), (54, 33, 12), (13, 55, 34)] ++
  [(35, 14, 56), (57, 36, 15), (16, 58, 37), (38, 17, 59), (60, 39, 18), (19, 61, 40), (41, 20, 62)]

/-- The single index of the last group (R95). -/
def permLast : Fin 64 := 63

/-- `Perm(g)`, row `g` of the table (R95); the engine reads it for `g < 21` only. -/
def perm (g : Nat) : Fin 64 × Fin 64 × Fin 64 := permTable.getD g (0, 0, 0)

/-- `V(g)`, the 24-bit value of a triple (R97): `D[a] | D[b] << 8 | D[c] << 16`. -/
def tripleValue (d : Digest) (t : Fin 64 × Fin 64 × Fin 64) : BitVec 24 :=
  d[t.1].setWidth 24 ||| (d[t.2.1].setWidth 24 <<< 8) ||| (d[t.2.2].setWidth 24 <<< 16)

/-- The value of the last group (R97, 90_conflicts.md C8): the byte zero-extended. -/
def lastValue (d : Digest) : BitVec 24 := d[permLast].setWidth 24

/-- `EncodeDigest(D)` (R97). -/
def encodeDigest (d : Digest) : List Byte :=
  ((List.range Config.nTriple).map fun g => enc (tripleValue d (perm g)) 4).flatten ++ enc (lastValue d) 2

/-- The characters `$6$` (R90, R92). -/
def tagChars : List Byte := [0x24#8, 0x36#8, 0x24#8]

/-- The character `$` (R90, R92). -/
def dollar : Byte := 0x24#8

/-- The output string for a (truncated) salt and a final digest (R90, 45_encoding_stage.md R170). -/
def output (salt : List Byte) (res : Digest) : List Byte := tagChars ++ salt ++ [dollar] ++ encodeDigest res

end Sys2Proof.Machine
end

