-- ==== Sys2Proof/Machine/EncodingStage.lean ====
section
/-! DEFINITION. The encoding stage (45_encoding_stage.md R171 to R174), `STAGE` codes 26 to 28. It issues no digest-port
operation. -/

namespace Sys2Proof.Machine

/-- `E_PREFIX` (R171): write `$6$`, the salt and `$`. -/
def execEPrefix (s : State) : Out :=
  readSalt s fun salt =>
    memWrite .out 0 tagChars s fun s =>
      memWrite .out 3 salt s fun s =>
        memWrite .out (3 + s.eng.saltLen.toNat) [dollar] s fun s =>
          .next (s.setEng
            { s.eng with
              outLen := 4#7 + s.eng.saltLen.setWidth 7
              outPtr := 0#7
              g := 0#5
              stage := Stage.eGroup })

/-- `E_GROUP` (R172): encode one triple, or the exit. -/
def execEGroup (s : State) : Out :=
  if s.eng.g.toNat < Config.nTriple then
    memWrite .out s.eng.outLen.toNat (enc (tripleValue s.eng.result (perm s.eng.g.toNat)) 4) s fun s =>
      .next (s.setEng { s.eng with outLen := s.eng.outLen + 4#7, g := s.eng.g + 1#5, stage := Stage.eGroup })
  else .next (s.setStage Stage.eLast)

/-- `E_LAST` (R173): encode byte 63, zeroise the working state, enter `DONE`. -/
def execELast (s : State) : Out :=
  memWrite .out s.eng.outLen.toNat (enc (lastValue s.eng.result) 2) s fun s =>
    .next (s.setEng
      { Engine.zeroiseWorking { s.eng with outLen := s.eng.outLen + 2#7 } with stage := Stage.done })

end Sys2Proof.Machine
end

