-- ==== Sys2Proof/Machine/HostCommands.lean ====
section
/-! DEFINITION. The host commands (46_host_commands.md R181 to R188), each at the point where its word has been decoded; and the
two rows of illegal opcode space. -/

namespace Sys2Proof.Machine

/-- `NOP` (R181): accepted in every state. -/
def execNop (s : State) : Out := .next (s.respond (ackWord 0#8))

/-- `CLR` (R182): the engine to its reset state, unless it is BUSY. -/
def execClr (s : State) : Out :=
  if s.eng.acceptsClr then .next (s.clearEngine.respond (ackWord 0#8)) else .next (s.reject .wrongState)

/-- `PUSHP imm8` (R183): one more password byte; the byte after the last place is fatal, and the rejection `FAULTED` is
written in the same step. -/
def execPushp (imm8 : Byte) (s : State) : Out :=
  if !s.eng.isIdle then .next (s.reject .wrongState)
  else if s.eng.pwLen = s.cfg.pwMax then .next ((s.reject .faulted).raiseFault .pwOverflow)
  else memWrite .pw s.eng.pwLen [imm8] s fun s =>
    .next ((s.setEng { s.eng with pwLen := s.eng.pwLen + 1 }).respond (ackWord 0#8))

/-- `PUSHS imm8` (R184): one more salt byte; the 17th and later ones are acknowledged and dropped. -/
def execPushs (imm8 : Byte) (s : State) : Out :=
  if !s.eng.isIdle then .next (s.reject .wrongState)
  else if s.eng.saltLen.toNat < Config.saltMax then
    memWrite .salt s.eng.saltLen.toNat [imm8] s fun s =>
      .next ((s.setEng { s.eng with saltLen := s.eng.saltLen + 1#5 }).respond (ackWord 0#8))
  else .next (s.respond (ackWord 0#8))

/-- `START` (R185): the computation begins. -/
def execStart (s : State) : Out :=
  if !s.eng.isIdle then .next (s.reject .wrongState)
  else .next ((s.setStage Stage.aInit).respond (ackWord 0#8))

/-- `POPC` (R186): the next output byte, once. -/
def execPopc (s : State) : Out :=
  if !s.eng.isDone then .next (s.reject .wrongState)
  else if s.eng.outPtr = s.eng.outLen then .next (s.reject .outEmpty)
  else memRead .out s.eng.outPtr.toNat 1 s fun c =>
    .next ((s.setEng { s.eng with outPtr := s.eng.outPtr + 1#7 }).respond (ackWord (c.headD 0#8)))

/-- `RDREG sel` (R187): a register byte; accepted in every state. -/
def execRdreg (sel : Byte) (s : State) : Out :=
  match s.eng.selected sel with
  | some d => .next (s.respond (ackWord d))
  | none => .next (s.reject .badSelector)

/-- A word with `op = 7` (R188): rejected in every state, whatever its other bits. -/
def execIllegalOp7 (_low : BitVec 12) (s : State) : Out := .next (s.reject .illegalOpcode)

/-- A word with `op = 8` to `15` (R188): rejected in every state, whatever its other bits. -/
def execIllegalOp8to15 (_low : BitVec 15) (s : State) : Out := .next (s.reject .illegalOpcode)

end Sys2Proof.Machine
end

