-- ==== Sys2Proof/Machine/MainSum.lean ====
section
/-! DEFINITION. The main-sum stage (42_main_sum.md R131 to R136), `STAGE` codes 6 to 11. -/

namespace Sys2Proof.Machine

/-- `M_INIT` (R131): start the main-sum context. -/
def execMInit (s : State) : Out := digStart s fun s => .next (s.setStage Stage.mPw)

/-- `M_PW` (R132): feed the password. -/
def execMPw (s : State) : Out := feedPw s fun s => .next (s.setStage Stage.mSalt)

/-- `M_SALT` (R133): feed the salt and load the cover counter. -/
def execMSalt (s : State) : Out :=
  feedSalt s fun s => .next (s.setEng { s.eng with cnt := s.eng.pwLen, stage := Stage.mCover })

/-- `M_COVER` (R134): one chunk of at most 64 bytes of `ALT`, or the exit that loads `LSH`. -/
def execMCover (s : State) : Out :=
  if s.eng.cnt > 0 then
    let n := min s.eng.cnt Config.chunk
    feedAlt n s fun s => .next (s.setEng { s.eng with cnt := s.eng.cnt - n, stage := Stage.mCover })
  else .next (s.setEng { s.eng with lsh := s.eng.pwLen, stage := Stage.mBits })

/-- `M_BITS` (R135): one bit of the length, `ALT` for a 1 and the password for a 0, or the exit. -/
def execMBits (s : State) : Out :=
  if s.eng.lsh ≠ 0 then
    let shift := fun s : State => Host.Outcome.next (s.setEng { s.eng with lsh := s.eng.lsh >>> 1, stage := Stage.mBits })
    if s.eng.lsh.testBit 0 then feedAlt 64 s shift else feedPw s shift
  else .next (s.setStage Stage.mFin)

/-- `M_FIN` (R136): take the working digest. -/
def execMFin (s : State) : Out :=
  digFinal s fun d s => .next (s.setEng { s.eng with result := d, stage := Stage.pInit })

end Sys2Proof.Machine
end

