-- ==== Sys2Proof/Machine/Rounds.lean ====
section
/-! DEFINITION. The round-mixing stage (44_round_mixing.md R156 to R161), `STAGE` codes 20 to 25. -/

namespace Sys2Proof.Machine

/-- `R_INIT` (R156): start the context of round `R`. -/
def execRInit (s : State) : Out := digStart s fun s => .next (s.setStage Stage.rF1)

/-- `R_F1` (R157): feed `P` if `R` is odd, else `RESULT`. -/
def execRF1 (s : State) : Out :=
  let onward := fun s : State => Host.Outcome.next (s.setStage Stage.rF2)
  if s.eng.r.getLsbD 0 then feedP s onward else feedResult s onward

/-- `R_F2` (R158): feed `S` unless 3 divides `R`. -/
def execRF2 (s : State) : Out :=
  let onward := fun s : State => Host.Outcome.next (s.setStage Stage.rF3)
  if s.eng.r.toNat % 3 ≠ 0 then feedS s onward else onward s

/-- `R_F3` (R159): feed `P` unless 7 divides `R`. -/
def execRF3 (s : State) : Out :=
  let onward := fun s : State => Host.Outcome.next (s.setStage Stage.rF4)
  if s.eng.r.toNat % 7 ≠ 0 then feedP s onward else onward s

/-- `R_F4` (R160): feed `RESULT` if `R` is odd, else `P`. -/
def execRF4 (s : State) : Out :=
  let onward := fun s : State => Host.Outcome.next (s.setStage Stage.rFin)
  if s.eng.r.getLsbD 0 then feedResult s onward else feedP s onward

/-- `R_FIN` (R161): take the round's digest and count the round; the last round leaves `R` at 4999. -/
def execRFin (s : State) : Out :=
  digFinal s fun d t =>
    if s.eng.r.toNat < Config.rounds - 1 then
      .next (t.setEng { t.eng with result := d, r := s.eng.r + 1#13, stage := Stage.rInit })
    else .next (t.setEng { t.eng with result := d, stage := Stage.ePrefix })

end Sys2Proof.Machine
end

