-- ==== Sys2Proof/Machine/Crypt6.lean ====
section
/-! DEFINITION. The function layer: `Crypt6` (00_scope.md R2) and the functions of the five stages, and the counts of steps and
work of a run (70_reset_and_hazards.md R262, R263). -/

namespace Sys2Proof.Machine

/-- `rep(x, n)`: `n` copies of `x` in all (00_scope.md R7). -/
def rep (x : List Byte) (n : Nat) : List Byte := (List.replicate n x).flatten

/-- The salt the engine uses: the first 16 bytes (R2, R6). -/
def truncSalt (salt : List Byte) : List Byte := salt.take Config.saltMax

/-- `AltSum(password, salt')` (41_alternate_sum.md R120). -/
def altSum (password salt : List Byte) : Digest := sha512 (password ++ salt ++ password)

/-- `Cover(i, ALT)` (42_main_sum.md R130), the recursion cut off after `fuel` chunks; `i` chunks are always enough. -/
def coverFuel (alt : Digest) : Nat → Nat → List Byte
  | 0, _ => []
  | fuel + 1, i =>
    if i = 0 then []
    else if i ≤ Config.chunk then alt.toList.take i
    else alt.toList ++ coverFuel alt fuel (i - Config.chunk)

/-- `Cover(i, ALT)` (R130). -/
def cover (alt : Digest) (i : Nat) : List Byte := coverFuel alt i i

/-- `Bits(v, ALT, password)` (R130), the recursion cut off after `fuel` bits; `v` bits are always enough. -/
def bitsFuel (alt : Digest) (password : List Byte) : Nat → Nat → List Byte
  | 0, _ => []
  | fuel + 1, v =>
    if v = 0 then []
    else (if v.testBit 0 then alt.toList else password) ++ bitsFuel alt password fuel (v >>> 1)

/-- `Bits(v, ALT, password)` (R130): the least significant bit is examined first (90_conflicts.md C2). -/
def bits (alt : Digest) (password : List Byte) (v : Nat) : List Byte := bitsFuel alt password v v

/-- The message of the main sum (R130). -/
def mainMsg (password salt : List Byte) (alt : Digest) : List Byte :=
  password ++ salt ++ cover alt password.length ++ bits alt password password.length

/-- `MainSum(password, salt', ALT)` (R130). -/
def mainSum (password salt : List Byte) (alt : Digest) : Digest := sha512 (mainMsg password salt alt)

/-- `DPof(password)` (43_sequence_construction.md R140): as many copies as the password has bytes (90_conflicts.md C6). -/
def dpOf (password : List Byte) : Digest := sha512 (rep password password.length)

/-- Byte `k mod 64` of a digest for `k = 0, ..., n - 1` (R140, R144). -/
def stretch (d : Digest) (n : Nat) : List Byte := (List.range n).map fun k => d.toList.getD (k % 64) 0#8

/-- `PSeq(password)` (R140). -/
def pSeq (password : List Byte) : List Byte := stretch (dpOf password) password.length

/-- `DSof(salt', b0)` (R145). -/
def dsOf (salt : List Byte) (b0 : Byte) : Digest := sha512 (rep salt (Config.sRepBase + b0.toNat))

/-- `SSeq(salt', b0)` (R145): a prefix of the digest (90_conflicts.md C11). -/
def sSeq (salt : List Byte) (b0 : Byte) : List Byte := (dsOf salt b0).toList.take salt.length

/-- `RoundMsg(r, X, P, S)` (44_round_mixing.md R155). -/
def roundMsg (r : Nat) (x : Digest) (p s : List Byte) : List Byte :=
  (if r % 2 = 1 then p else x.toList) ++ (if r % 3 ≠ 0 then s else []) ++ (if r % 7 ≠ 0 then p else [])
    ++ (if r % 2 = 1 then x.toList else p)

/-- `X(r)`, the working digest before round `r` (R155). -/
def roundDigest (res0 : Digest) (p s : List Byte) : Nat → Digest
  | 0 => res0
  | r + 1 => sha512 (roundMsg r (roundDigest res0 p s r) p s)

/-- `Rounds(RES0, P, S)` (R155). -/
def rounds (res0 : Digest) (p s : List Byte) : Digest := roundDigest res0 p s Config.rounds

/-- `RES0` of R2, the main-sum digest of a password and a truncated salt. -/
def mainDigest (password salt : List Byte) : Digest := mainSum password salt (altSum password salt)

/-- `RES` of R2, the digest after the rounds. -/
def finalDigest (password salt : List Byte) : Digest :=
  let res0 := mainDigest password salt
  rounds res0 (pSeq password) (sSeq salt res0[0])

/-- `Crypt6(password, salt)` (00_scope.md R2). -/
def crypt6 (password salt : List Byte) : List Byte :=
  output (truncSalt salt) (finalDigest password (truncSalt salt))

/-! ## Counts -/

/-- `bitlen(v)` (00_scope.md R8). -/
def bitlen (v : Nat) : Nat := if v = 0 then 0 else Nat.log2 v + 1

/-- `ceil(n / 64)`: chunks of the cover loop (R134). -/
def coverChunks (n : Nat) : Nat := (n + 63) / 64

/-- Sequencer steps of the main-sum stage (42_main_sum.md R137). -/
def mainSteps (len : Nat) : Nat := 3 + (coverChunks len + 1) + (bitlen len + 1) + 1

/-- Sequencer steps of the P part of the sequence-construction stage (43_sequence_construction.md R150). -/
def pSteps (len : Nat) : Nat := 1 + (len + 1) + 1 + 1

/-- Sequencer steps of the S part of the sequence-construction stage (R150). -/
def sSteps (b0 : Byte) : Nat := 1 + (16 + b0.toNat + 1) + 1 + 1

/-- `Steps(L, b0)` (70_reset_and_hazards.md R262). -/
def runSteps (len : Nat) (b0 : Byte) : Nat :=
  5 + mainSteps len + pSteps len + sSteps b0 + 6 * Config.rounds + (1 + 22 + 1)

/-- `DigOps(L, b0)` (R263): digest-port operations of a run. -/
def runDigOps (len : Nat) (b0 : Byte) : Nat := 27647 + len + coverChunks len + bitlen len + b0.toNat

/-- `ones(v)`, the number of 1 bits (42_main_sum.md R130). -/
def ones (v : Nat) : Nat := ((List.range (bitlen v)).filter fun i => v.testBit i).length

/-- Bytes of the main-sum message for a password of `len` and a salt of `saltLen` bytes (R130). -/
def mainBytes (len saltLen : Nat) : Nat := 2 * len + saltLen + 64 * ones len + len * (bitlen len - ones len)

/-- Bytes of the message of round `r` (44_round_mixing.md R155). -/
def roundBytes (r len saltLen : Nat) : Nat :=
  64 + len + (if r % 3 ≠ 0 then saltLen else 0) + (if r % 7 ≠ 0 then len else 0)

/-- `Fed(L, s, b0)` (70_reset_and_hazards.md R263): bytes fed through the digest port in a run. -/
def runFed (len saltLen : Nat) (b0 : Byte) : Nat :=
  (2 * len + saltLen) + mainBytes len saltLen + len * len + (16 + b0.toNat) * saltLen
    + (Config.rounds * 64 + 9285 * len + 3333 * saltLen)

/-- Compression-function calls of a run (R263): `N` of R212 over the 5004 messages. -/
def runCompressions (len saltLen : Nat) (b0 : Byte) : Nat :=
  blockCount (2 * len + saltLen) + blockCount (mainBytes len saltLen) + blockCount (len * len)
    + blockCount ((16 + b0.toNat) * saltLen)
    + ((List.range Config.rounds).map fun r => blockCount (roundBytes r len saltLen)).sum

end Sys2Proof.Machine
end

