-- ==== Sys2Proof/Machine/Sequences.lean ====
section
/-! DEFINITION. The sequence-construction stage (43_sequence_construction.md R141 to R149), `STAGE` codes 12 to 19. -/

namespace Sys2Proof.Machine

/-- `P_INIT` (R141): start the P context and load the copy counter. -/
def execPInit (s : State) : Out :=
  digStart s fun s => .next (s.setEng { s.eng with cnt := s.eng.pwLen, stage := Stage.pRep })

/-- `P_REP` (R142): one copy of the password, or the exit. -/
def execPRep (s : State) : Out :=
  if s.eng.cnt > 0 then
    feedPw s fun s => .next (s.setEng { s.eng with cnt := s.eng.cnt - 1, stage := Stage.pRep })
  else .next (s.setStage Stage.pFin)

/-- `P_FIN` (R143): take the P digest. -/
def execPFin (s : State) : Out := digFinal s fun d s => .next (s.setEng { s.eng with dp := d, stage := Stage.pFill })

/-- `P_FILL` (R144): `P[k] <- DP[k mod 64]` for `k < PWLEN`. -/
def execPFill (s : State) : Out :=
  memWrite .p 0 (stretch s.eng.dp s.eng.pwLen) s fun s => .next (s.setStage Stage.sInit)

/-- `S_INIT` (R146): start the S context; `16 + RESULT[0]` copies, which does not wrap. -/
def execSInit (s : State) : Out :=
  digStart s fun s =>
    .next (s.setEng { s.eng with cnt := Config.sRepBase + s.eng.result[0].toNat, stage := Stage.sRep })

/-- `S_REP` (R147): one copy of the salt, or the exit. -/
def execSRep (s : State) : Out :=
  if s.eng.cnt > 0 then
    feedSalt s fun s => .next (s.setEng { s.eng with cnt := s.eng.cnt - 1, stage := Stage.sRep })
  else .next (s.setStage Stage.sFin)

/-- `S_FIN` (R148): take the S digest. -/
def execSFin (s : State) : Out := digFinal s fun d s => .next (s.setEng { s.eng with ds := d, stage := Stage.sFill })

/-- `S_FILL` (R149): `S[k] <- DS[k]` for `k < SALTLEN`, and the round counter is cleared. -/
def execSFill (s : State) : Out :=
  memRead .ds 0 s.eng.saltLen.toNat s fun x =>
    memWrite .s 0 x s fun s => .next (s.setEng { s.eng with r := 0#13, stage := Stage.rInit })

end Sys2Proof.Machine
end

