-- ==== Sys2Proof/Machine/Dispatch.lean ====
section
/-! DEFINITION. One arm per instruction: the call of its meaning. -/

namespace Sys2Proof.Machine

def exec (i : Instr) (s : State) : Host.Outcome State Fault Refusal :=
  match i with
  | .nop => Sys2Proof.Machine.execNop s
  | .clr => Sys2Proof.Machine.execClr s
  | .pushp imm8 => Sys2Proof.Machine.execPushp imm8 s
  | .pushs imm8 => Sys2Proof.Machine.execPushs imm8 s
  | .start => Sys2Proof.Machine.execStart s
  | .popc => Sys2Proof.Machine.execPopc s
  | .rdreg sel => Sys2Proof.Machine.execRdreg sel s
  | .illegalOp7 low => Sys2Proof.Machine.execIllegalOp7 low s
  | .illegalOp8to15 low => Sys2Proof.Machine.execIllegalOp8to15 low s
  | .aInit => Sys2Proof.Machine.execAInit s
  | .aPw1 => Sys2Proof.Machine.execAPw1 s
  | .aSalt => Sys2Proof.Machine.execASalt s
  | .aPw2 => Sys2Proof.Machine.execAPw2 s
  | .aFin => Sys2Proof.Machine.execAFin s
  | .mInit => Sys2Proof.Machine.execMInit s
  | .mPw => Sys2Proof.Machine.execMPw s
  | .mSalt => Sys2Proof.Machine.execMSalt s
  | .mCover => Sys2Proof.Machine.execMCover s
  | .mBits => Sys2Proof.Machine.execMBits s
  | .mFin => Sys2Proof.Machine.execMFin s
  | .pInit => Sys2Proof.Machine.execPInit s
  | .pRep => Sys2Proof.Machine.execPRep s
  | .pFin => Sys2Proof.Machine.execPFin s
  | .pFill => Sys2Proof.Machine.execPFill s
  | .sInit => Sys2Proof.Machine.execSInit s
  | .sRep => Sys2Proof.Machine.execSRep s
  | .sFin => Sys2Proof.Machine.execSFin s
  | .sFill => Sys2Proof.Machine.execSFill s
  | .rInit => Sys2Proof.Machine.execRInit s
  | .rF1 => Sys2Proof.Machine.execRF1 s
  | .rF2 => Sys2Proof.Machine.execRF2 s
  | .rF3 => Sys2Proof.Machine.execRF3 s
  | .rF4 => Sys2Proof.Machine.execRF4 s
  | .rFin => Sys2Proof.Machine.execRFin s
  | .ePrefix => Sys2Proof.Machine.execEPrefix s
  | .eGroup => Sys2Proof.Machine.execEGroup s
  | .eLast => Sys2Proof.Machine.execELast s
  | .digStart => Sys2Proof.Machine.execDigStart s
  | .digFeed bytes => Sys2Proof.Machine.execDigFeed bytes s
  | .digFinal => Sys2Proof.Machine.execDigFinal s

end Sys2Proof.Machine
end

