-- ==== Sys2Proof/Machine/Agents.lean ====
section
/-! DEFINITION. The atomic steps of the three agents (00_scope.md R11): the host's command, the sequencer's operation, the
environment's reset; whose turn it is; and how a single instruction is placed to be the next one. -/

namespace Sys2Proof.Machine

/-- `HostCmd(w)` (46_host_commands.md R180): the word is decoded; a reserved field is rejected before anything else is asked,
every other check is the command's own. -/
def hostCmd (w : Word16) (s : State) : Out :=
  match decodeCmd16 w with
  | .ok i => exec i s
  | .error _ => .next (s.reject .reservedField)

/-- `SeqStep` (R11, 10_state.md R25): the operation that `STAGE` selects; at a code that selects none the step is not enabled and
nothing changes (R26, R27). -/
def seqStep (s : State) : Out :=
  match decodeStage5 s.eng.stage with
  | .ok i => exec i s
  | .error _ => .next s

/-- `HardReset` (70_reset_and_hazards.md R250): enabled in every state, no response. -/
def hardReset (s : State) : Out := .next s.clearEngine

/-- The agent's step that comes next: the first of the agenda, and the sequencer's turn where the agenda has no more (R11, R264;
log entry 1, DESIGN CHOICE, safe). -/
def State.nextEvent (s : State) : Event := s.agenda.headD .seqTurn

/-- The state in which that step is taken: the agenda without it. -/
def State.popEvent (s : State) : State := { s with agenda := s.agenda.tail }

/-- An agent's step. -/
def runEvent : Event → State → Out
  | .hostCmd w, s => hostCmd w s
  | .seqTurn, s => seqStep s
  | .hardReset, s => hardReset s

/-- The digest context opened where it is not. -/
def openedCtx (c : DigestCtx) : DigestCtx := if c.isOpen then c else { isOpen := true, msg := [] }

/-- Whether the operation at a `STAGE` code needs an open digest context (10_state.md R38 item 3). -/
def stageNeedsCtx (c : BitVec 5) : Bool :=
  decide (c.toNat ∈ [2, 3, 4, 5, 7, 8, 9, 10, 11, 13, 14, 17, 18, 21, 22, 23, 24, 25])

/-- The state in which the sequencer stands at a `STAGE` code, with the turn, and with the open context that this code has in
every run (R38 item 3). -/
def placeStage (c : BitVec 5) (s : State) : State :=
  { s with
    eng := { s.eng with stage := c, ctx := if stageNeedsCtx c then openedCtx s.eng.ctx else s.eng.ctx }
    agenda := .seqTurn :: s.agenda }

/-- The first sequencer operation that issues a digest-port operation (40_digest_port.md R110, R116): `A_INIT` for `DIG.START`,
`A_PW1` for `DIG.FEED`, `A_FIN` for `DIG.FINAL` (log entry 9). -/
def issuingStage (c : BitVec 2) : BitVec 5 :=
  match c.toNat with
  | 1 => Stage.aInit
  | 2 => Stage.aPw1
  | 3 => Stage.aFin
  | _ => Stage.idle

/-- The state in which the very next step runs the instruction of an encoded form: a command word is presented at the command
port, a `STAGE` code is where the sequencer stands, and a digest-port operation is reached through the sequencer operation
that issues it. -/
def placeEncoded (e : Encoded) (s : State) : State :=
  match e with
  | .cmd16 w => { s with agenda := .hostCmd w :: s.agenda }
  | .stage5 c => placeStage c s
  | .digop2 c _ => placeStage (issuingStage c) s

/-- The same for a word laid out as spec/opcode_table.json numbers its bits. -/
def placeTableWord (s : State) (nbits w : Nat) : State :=
  match tableEncoded nbits w with
  | some e => placeEncoded e s
  | none => s

end Sys2Proof.Machine
end

