-- ==== Sys2Proof/Machine/Step.lean ====
section
/-! DEFINITION. One step of the machine: one atomic step of one agent (00_scope.md R11). -/

namespace Sys2Proof.Machine

/-- One step: the agent whose turn it is takes its atomic step. -/
def step (s : State) : Host.Outcome State Fault Refusal := runEvent s.nextEvent s.popEvent

/-- The state whose very next step runs the instruction whose bits are `w`, numbered as spec/opcode_table.json numbers them
(log entries 8 and 9). -/
def State.withFetchWord (s : State) (nbits w : Nat) : State := placeTableWord s nbits w

end Sys2Proof.Machine
end

