-- ==== Sys2Proof/Safety.lean ====
section
/-! DEFINITION. The terms in which statements speak of the machine: next states written out, the invariants of the engine
(10_state.md R38), what a host can observe, runs of the sequencer, and the host's command sequences
(30_encoding.md R99, 46_host_commands.md R190). -/

namespace Sys2Proof

open Machine

/-- `n` steps of the machine. -/
def run (n : Nat) (s : State) : Out := Host.Core.run core n s

/-- The digest unit answers ok to each of the next `n` digest-port operations (40_digest_port.md R114). -/
def Machine.State.okFor (s : State) (n : Nat) : Prop := ∀ k < n, s.failsAt k = false

/-- The state after `n` answers have been drawn. -/
def Machine.State.drawn (s : State) (n : Nat) : State :=
  { s with answers := s.answers.drop n, digCount := s.digCount + n }

/-! ## The valid bytes of the buffers (10_state.md R29 to R32) -/

/-- The password, `PW[0 .. PWLEN)` (R29). -/
def Machine.Engine.password (e : Engine) : List Byte := e.bytes .pw 0 e.pwLen

/-- The salt, `SALT[0 .. SALTLEN)` (R30). -/
def Machine.Engine.saltBytes (e : Engine) : List Byte := e.bytes .salt 0 e.saltLen.toNat

/-- The P-sequence, `P[0 .. PWLEN)` (R31). -/
def Machine.Engine.pBytes (e : Engine) : List Byte := e.bytes .p 0 e.pwLen

/-- The S-sequence, `S[0 .. SALTLEN)` (R31). -/
def Machine.Engine.sBytes (e : Engine) : List Byte := e.bytes .s 0 e.saltLen.toNat

/-- The output string, `OUT[0 .. OUTLEN)` (R32). -/
def Machine.Engine.outBytes (e : Engine) : List Byte := e.bytes .out 0 e.outLen.toNat

/-! ## Next states, written out -/

/-- The state after a command: another engine state, and one more response. -/
def Machine.State.replied (s : State) (e : Engine) (w : Word16) : State :=
  { s with eng := e, responses := s.responses ++ [w] }

/-- The response of a performed command with data `d` (30_encoding.md R81): `1`, seven zero bits, `d`. -/
def okWord (d : Byte) : Word16 := 0x80#8 ++ d

/-- The state after a rejection with cause code `c` (60_exceptions.md R223). -/
def Machine.State.rejected (s : State) (c : BitVec 3) : State :=
  s.replied { s.eng with cmdErr := true, rejCode := c } (0#1 ++ c ++ 0#12)

/-- A word with opcode `op` whose reserved field is not zero, or whose operand byte is not zero where the command takes none,
is rejected `RESERVED_FIELD` (30_encoding.md R86 item 2). -/
def rejectsReserved (op : Nat) (s : State) : Prop :=
  ∀ w : Word16, w.toNat / 2 ^ 12 = op → w.toNat / 2 ^ 8 % 2 ^ 4 ≠ 0 ∨ (w.toNat % 2 ^ 8 ≠ 0 ∧ op ∈ [0, 1, 4, 5]) →
    hostCmd w s = .next (s.rejected 2#3)

/-- The engine after a fatal fault with cause code `c` (60_exceptions.md R227): all zero but the cause, `STAGE` 30, and the
two registers that are kept. -/
def Machine.Engine.faulted (e : Engine) (c : BitVec 2) : Engine :=
  { Engine.reset with stage := 30#5, errCode := c, cmdErr := e.cmdErr, rejCode := e.rejCode }

/-- The state after a digest-port operation: another engine state, and one answer drawn (40_digest_port.md R114). -/
def Machine.State.answered (s : State) (e : Engine) : State :=
  { s with eng := e, answers := s.answers.tail, digCount := s.digCount + 1 }

/-- The valid lengths of the two inputs are within their buffers (10_state.md R29, R30). -/
def Machine.State.inputsFit (s : State) : Prop := s.eng.pwLen ≤ s.cfg.pwMax ∧ s.eng.saltLen.toNat ≤ 16

/-- Instructions one after another. -/
def execAll : List Instr → State → Out
  | [], s => .next s
  | i :: is, s =>
    match exec i s with
    | .next t => execAll is t
    | .fault f => .fault f
    | .refused r => .refused r

/-! ## What the sequencer operations issue and store -/

/-- Whether a sequencer operation issues a digest-port operation (40_digest_port.md R116). -/
def issuesPortOp (i : Instr) (e : Engine) : Prop :=
  i ∈ [.aInit, .mInit, .pInit, .sInit, .rInit, .aPw1, .aSalt, .aPw2, .mPw, .mSalt, .rF1, .rF4, .aFin, .mFin, .pFin, .sFin, .rFin]
    ∨ (i ∈ [.mCover, .pRep, .sRep] ∧ e.cnt > 0)
    ∨ (i = .mBits ∧ e.lsh ≠ 0)
    ∨ (i = .rF2 ∧ e.r.toNat % 3 ≠ 0)
    ∨ (i = .rF3 ∧ e.r.toNat % 7 ≠ 0)

/-- Whether a sequencer operation starts a context, whatever state the old one is in (R111, R116). -/
def startsContext (i : Instr) : Prop := i ∈ [.aInit, .mInit, .pInit, .sInit, .rInit]

/-- The bytes that an instruction stores to in one of the buffers `PW`, `SALT`, `P`, `S`, `OUT` (20_memory.md R64): the
space, the first offset, the number of bytes. -/
def storeTarget (i : Instr) (e : Engine) : Option (Space × Nat × Nat) :=
  match i with
  | .pushp _ => some (.pw, e.pwLen, 1)
  | .pushs _ => some (.salt, e.saltLen.toNat, 1)
  | .pFill => some (.p, 0, e.pwLen)
  | .sFill => some (.s, 0, e.saltLen.toNat)
  | .ePrefix => some (.out, 0, 4 + e.saltLen.toNat)
  | .eGroup => some (.out, e.outLen.toNat, 4)
  | _ => none

/-- Whether a byte lies in a range of a space. -/
def inTarget (tgt : Option (Space × Nat × Nat)) (sp : Space) (k : Nat) : Prop :=
  ∃ off n, tgt = some (sp, off, n) ∧ off ≤ k ∧ k < off + n

/-- The next-`STAGE` column of 10_state.md R26 for a BUSY engine, for a step that does not fault. -/
def Machine.Engine.nextStage (e : Engine) : Nat :=
  match e.stage.toNat with
  | 9 => if e.cnt > 0 then 9 else 10
  | 10 => if e.lsh ≠ 0 then 10 else 11
  | 13 => if e.cnt > 0 then 13 else 14
  | 17 => if e.cnt > 0 then 17 else 18
  | 25 => if e.r.toNat < 4999 then 20 else 26
  | 27 => if e.g.toNat < 21 then 27 else 28
  | c => c + 1

/-- What an instruction that issues a digest-port operation does (40_digest_port.md R114): the engine `e` where the digest
unit answers ok, fault entry with `DIGEST_FAIL` where it answers fail. -/
def portOutcome (i : Instr) (s : State) (e : Engine) : Prop :=
  (s.failsAt 0 = false → exec i s = .next (s.answered e)) ∧
    (s.failsAt 0 = true → exec i s = .next (s.answered (s.eng.faulted 2#2)))

/-! ## The data encodings as arithmetic -/

/-- Character `i` of the crypt alphabet (30_encoding.md R93), by its ranges. -/
def charOf (i : Nat) : Byte :=
  if i = 0 then 0x2E#8
  else if i = 1 then 0x2F#8
  else if i < 12 then BitVec.ofNat 8 (0x30 + (i - 2))
  else if i < 38 then BitVec.ofNat 8 (0x41 + (i - 12))
  else BitVec.ofNat 8 (0x61 + (i - 38))

/-- The index triple of group `g` by the closed form of 30_encoding.md R96. -/
def closedTriple (g : Nat) : Nat × Nat × Nat :=
  if g % 3 = 0 then (g + 42, g + 21, g) else if g % 3 = 1 then (g, g + 42, g + 21) else (g + 21, g, g + 42)

/-- Byte `k` of a digest as a number (00_scope.md R8). -/
def byteVal (d : Digest) (k : Nat) : Nat := (d.toList.getD k 0#8).toNat

/-- The number that a triple of indices stands for (20_memory.md R62). -/
def tripleVal (d : Digest) (t : Nat × Nat × Nat) : Nat :=
  byteVal d t.1 + 2 ^ 8 * byteVal d t.2.1 + 2 ^ 16 * byteVal d t.2.2

/-! ## The invariants of R38 -/

/-- Every piece of the engine's state is zero (10_state.md R39). -/
structure Machine.Engine.AllZero (e : Engine) : Prop where
  bytes : ∀ sp k, e.byteAt sp k = 0#8
  stage : e.stage = 0#5
  pwLen : e.pwLen = 0
  saltLen : e.saltLen = 0#5
  outLen : e.outLen = 0#7
  outPtr : e.outPtr = 0#7
  cnt : e.cnt = 0
  lsh : e.lsh = 0
  r : e.r = 0#13
  g : e.g = 0#5
  ctxOpen : e.ctx.isOpen = false
  ctxMsg : e.ctx.msg = []
  cmdErr : e.cmdErr = false
  rejCode : e.rejCode = 0#3
  errCode : e.errCode = 0#2

/-- R38 item 1, with the ranges of `CNT` and `LSH` (R28). -/
structure Machine.Engine.Bounded (p : Params) (e : Engine) : Prop where
  stage_le : e.stage.toNat ≤ 30
  pwLen_le : e.pwLen ≤ p.pwMax
  saltLen_le : e.saltLen.toNat ≤ 16
  outPtr_le : e.outPtr.toNat ≤ e.outLen.toNat
  outLen_le : e.outLen.toNat ≤ 106
  r_le : e.r.toNat ≤ 4999
  g_le : e.g.toNat ≤ 21
  cnt_le : e.cnt ≤ max p.pwMax 271
  lsh_le : e.lsh ≤ p.pwMax

/-- Every buffer is in canonical form. -/
structure Machine.Engine.MemForm (e : Engine) : Prop where
  pw : e.pw.wf
  salt : e.salt.wf
  pBuf : e.pBuf.wf
  sBuf : e.sBuf.wf
  out : e.out.wf

/-- R38 item 2, and for `P` and `S` 93_implementation_defined.md U12: bytes past the valid ones are zero. -/
structure Machine.Engine.ZeroTails (e : Engine) : Prop where
  pw : ∀ k, e.pwLen ≤ k → e.pw.read k = 0#8
  salt : ∀ k, e.saltLen.toNat ≤ k → e.salt.read k = 0#8
  pBuf : ∀ k, e.pwLen ≤ k → e.pBuf.read k = 0#8
  sBuf : ∀ k, e.saltLen.toNat ≤ k → e.sBuf.read k = 0#8
  out : ∀ k, e.outLen.toNat ≤ k → e.out.read k = 0#8

/-- The `STAGE` codes at which the context is open (R38 item 3). -/
def openStages : List Nat := [2, 3, 4, 5, 7, 8, 9, 10, 11, 13, 14, 17, 18, 21, 22, 23, 24, 25]

/-- R38 item 3. -/
structure Machine.Engine.CtxByStage (e : Engine) : Prop where
  open_iff : e.ctx.isOpen = true ↔ e.stage.toNat ∈ openStages
  closed_empty : e.ctx.isOpen = false → e.ctx.msg = []

/-- R38 items 4 and 5. -/
structure Machine.Engine.Filled (e : Engine) : Prop where
  p : 16 ≤ e.stage.toNat → e.stage.toNat ≤ 28 → ∀ k < e.pwLen, e.pBuf.read k = e.dp.toList.getD (k % 64) 0#8
  s : 20 ≤ e.stage.toNat → e.stage.toNat ≤ 28 → ∀ k < e.saltLen.toNat, e.sBuf.read k = e.ds.toList.getD k 0#8

/-- R38 items 6, 7 and 8: what is zero in `IDLE`, `DONE` and `FAULT`. (That the output in `DONE` is `Crypt6` is a statement
about runs.) -/
structure Machine.Engine.Quiescent (e : Engine) : Prop where
  idle : e.stage = Stage.idle → e = { Engine.reset with
    pw := e.pw
    pwLen := e.pwLen
    salt := e.salt
    saltLen := e.saltLen
    cmdErr := e.cmdErr
    rejCode := e.rejCode }
  done : e.stage = Stage.done → e = { Engine.reset with
    stage := Stage.done
    out := e.out
    outLen := e.outLen
    outPtr := e.outPtr
    cmdErr := e.cmdErr
    rejCode := e.rejCode }
  fault : e.stage = Stage.fault → e = { Engine.reset with
    stage := Stage.fault
    errCode := e.errCode
    cmdErr := e.cmdErr
    rejCode := e.rejCode }

/-- How far `OUT` is at each `STAGE` code (45_encoding_stage.md R176, 10_state.md R32). -/
structure Machine.Engine.OutProgress (e : Engine) : Prop where
  before : e.stage.toNat ≤ 26 → e.outLen = 0#7 ∧ e.outPtr = 0#7
  group : e.stage = Stage.eGroup → e.outLen.toNat = 4 + e.saltLen.toNat + 4 * e.g.toNat ∧ e.outPtr = 0#7
  last : e.stage = Stage.eLast → e.outLen.toNat = 88 + e.saltLen.toNat ∧ e.outPtr = 0#7
  done : e.stage = Stage.done → 90 ≤ e.outLen.toNat

/-- The error registers (R35; 30_encoding.md R88, R89): the codes that are never held, and where `ERRCODE` is zero. -/
structure Machine.Engine.ErrCodes (e : Engine) : Prop where
  rej : e.rejCode ≠ 6#3
  rejSet : e.cmdErr = false ↔ e.rejCode = 0#3
  err : e.stage ≠ Stage.fault → e.errCode = 0#2
  errFault : e.stage = Stage.fault → e.errCode = 1#2 ∨ e.errCode = 2#2

/-- The invariant of the engine (R38). -/
structure Machine.Engine.Inv (p : Params) (e : Engine) : Prop where
  bounded : e.Bounded p
  memForm : e.MemForm
  zeroTails : e.ZeroTails
  ctxByStage : e.CtxByStage
  filled : e.Filled
  quiescent : e.Quiescent
  outProgress : e.OutProgress
  errCodes : e.ErrCodes

/-- The invariant of the machine. -/
def Machine.State.Inv (s : State) : Prop := s.eng.Inv s.cfg

/-! ## What a run depends on, and what a host sees -/

/-- The part of the engine's state that a sequencer operation can read: all of it but the error registers, which none reads
(R35). -/
def Machine.Engine.dataPath (e : Engine) : Engine := { e with cmdErr := false, rejCode := 0#3 }

/-- Two states from which the sequencer computes the same: they agree on everything but the two error registers, the host's
commands and responses, and the reply register of the model. -/
def SameRun (s t : State) : Prop :=
  t.eng.dataPath = s.eng.dataPath ∧ t.cfg = s.cfg ∧ t.answers = s.answers ∧ t.digCount = s.digCount

/-- The registers that a selector of R36 or the `POPC` of R186 can show. -/
structure HostView where
  stage : BitVec 5
  errCode : BitVec 2
  rejCode : BitVec 3
  cmdErr : Bool
  saltLen : BitVec 5
  outLen : BitVec 7
  outPtr : BitVec 7
  r : BitVec 13
  pwLen : Nat
  outByte : Option Byte
  deriving DecidableEq, Repr

/-- What a host can see of an engine: the registers of R36, and the next output byte when it is `DONE`. -/
def Machine.Engine.hostView (e : Engine) : HostView where
  stage := e.stage
  errCode := e.errCode
  rejCode := e.rejCode
  cmdErr := e.cmdErr
  saltLen := e.saltLen
  outLen := e.outLen
  outPtr := e.outPtr
  r := e.r
  pwLen := e.pwLen
  outByte := if e.isDone then some (e.out.read e.outPtr.toNat) else none

/-! ## Host command sequences (30_encoding.md R99) -/

/-- `LOADPW`: one `PUSHP` for each byte. -/
def loadPw (pw : List Byte) : List Event := pw.map fun b => .hostCmd (cmdWord 2#4 b)

/-- `LOADSALT`: one `PUSHS` for each byte. -/
def loadSalt (salt : List Byte) : List Event := salt.map fun b => .hostCmd (cmdWord 3#4 b)

/-- The words of `CLR`, `START`, `STAT`, `RDREG OUTLEN` and `POPC` (30_encoding.md R84, R98, R99). -/
def clrEvent : Event := .hostCmd 0x1000#16
def startEvent : Event := .hostCmd 0x4000#16
def statEvent : Event := .hostCmd 0x6000#16
def outLenEvent : Event := .hostCmd 0x6005#16
def popcEvent : Event := .hostCmd 0x5000#16

/-- The canonical command sequence of 46_host_commands.md R190 up to `START`. -/
def startSequence (pw salt : List Byte) : List Event := [clrEvent] ++ loadPw pw ++ loadSalt salt ++ [startEvent]

/-- The whole of it, with `turns` sequencer turns in the wait and `n` bytes read out; of the polls of the wait, which change
nothing, the last one. -/
def hashSequence (pw salt : List Byte) (turns n : Nat) : List Event :=
  startSequence pw salt ++ List.replicate turns .seqTurn ++ [statEvent, outLenEvent] ++ List.replicate n popcEvent

/-- The number of sequencer turns of an agenda. -/
def turnsOf (agenda : List Event) : Nat := agenda.countP (· == .seqTurn)

end Sys2Proof
end

