-- ==== Sys2Proof/WellFormed.lean ====
section
/-! DEFINITION. Which instructions are well formed. Every operand field is a bit vector of its own width, so the one check
is the length of a feed (40_digest_port.md R112). -/

namespace Sys2Proof

/-- The longest byte sequence one `DIG.FEED` carries as an operation (R112): `max(PW_MAX, 64)`. The decoder holds an encoded
transaction to the `PW_MAX` of 30_encoding.md R83, which is the same from 64 on (log entry 15, DEDUCED). -/
def Params.feedMax (p : Params) : Nat := max p.pwMax 64

/-- The operands are in the ranges the spec gives them: `DIG.FEED` has 0 to `max(PW_MAX, 64)` bytes (R112). -/
def Instr.wf (p : Params) : Instr → Bool
  | .digFeed bytes => decide (bytes.length ≤ p.feedMax)
  | .nop | .clr | .pushp _ | .pushs _ | .start | .popc | .rdreg _ | .illegalOp7 _ | .illegalOp8to15 _
  | .aInit | .aPw1 | .aSalt | .aPw2 | .aFin
  | .mInit | .mPw | .mSalt | .mCover | .mBits | .mFin
  | .pInit | .pRep | .pFin | .pFill | .sInit | .sRep | .sFin | .sFill
  | .rInit | .rF1 | .rF2 | .rF3 | .rF4 | .rFin
  | .ePrefix | .eGroup | .eLast
  | .digStart | .digFinal => true

end Sys2Proof
end

