-- ==== Sys2Proof/Certificates/Slice0/Obligations.lean ====
section
/-! DEFINITION. The statements for the provers, one `def Obligations.<Name> : Prop` each, in the order of OBLIGATIONS.json. A
statement that gives an equation `exec i s = .next t` gives the whole next state `t`: what it does not name is as in `s`. -/

open Sys2Proof Sys2Proof.Machine

/-! ## Encodings -/

/-- Words written out from the tables of 30_encoding.md R84, R82 and R83 decode to what they stand for. -/
def Obligations.WrittenWordsDecode : Prop :=
  decodeCmd16 0x1000#16 = .ok .clr ∧
  decodeCmd16 0x2061#16 = .ok (.pushp 0x61#8) ∧
  decodeCmd16 0x3024#16 = .ok (.pushs 0x24#8) ∧
  decodeCmd16 0x6013#16 = .ok (.rdreg 0x13#8) ∧
  decodeCmd16 0xF123#16 = .ok (.illegalOp8to15 0x7123#15) ∧
  decodeCmd16 0x2161#16 = .error .reservedField ∧
  decodeStage5 9#5 = .ok .mCover ∧
  decodeStage5 31#5 = .error .reservedStage ∧
  decodeDigop2 Params.default 2#2 [0x61#8] = .ok (.digFeed [0x61#8]) ∧
  decodeDigop2 { Params.default with pwMax := 0 } 2#2 [0x61#8] = .error .requestTooLong

/-- An encoded form decodes to an instruction exactly when it is the one the encoder gives for it and, for a feed, it has at most
the `PW_MAX` bytes of R83: nothing of an encoding is dropped, and no two encoded forms have the same meaning (R82 to R84). Where
`PW_MAX` is at least 64, that is every instruction with operands as its rule gives them (log entry 15, DEDUCED). -/
def Obligations.DecodeIffEncode : Prop :=
  ∀ p : Params,
    (∀ (e : Encoded) (i : Instr), decode p e = .ok i ↔ e = encode i ∧ ∀ x, i = .digFeed x → x.length ≤ p.pwMax) ∧
    (∀ i : Instr, 64 ≤ p.pwMax → i.wf p = true → decode p (encode i) = .ok i)

/-- The `match` and `mask` columns of R84: a word is a command exactly when `w & mask = match`, and its operand is `w[7:0]`
(R85). -/
def Obligations.MatchMaskTable : Prop :=
  ∀ w : Word16,
    (decodeCmd16 w = .ok .nop ↔ w &&& 0xFFFF#16 = 0x0000#16) ∧
    (decodeCmd16 w = .ok .clr ↔ w &&& 0xFFFF#16 = 0x1000#16) ∧
    (∀ b, decodeCmd16 w = .ok (.pushp b) ↔ w &&& 0xFF00#16 = 0x2000#16 ∧ b = w.setWidth 8) ∧
    (∀ b, decodeCmd16 w = .ok (.pushs b) ↔ w &&& 0xFF00#16 = 0x3000#16 ∧ b = w.setWidth 8) ∧
    (decodeCmd16 w = .ok .start ↔ w &&& 0xFFFF#16 = 0x4000#16) ∧
    (decodeCmd16 w = .ok .popc ↔ w &&& 0xFFFF#16 = 0x5000#16) ∧
    (∀ b, decodeCmd16 w = .ok (.rdreg b) ↔ w &&& 0xFF00#16 = 0x6000#16 ∧ b = w.setWidth 8) ∧
    ((∃ low, decodeCmd16 w = .ok (.illegalOp7 low)) ↔ w &&& 0xF000#16 = 0x7000#16) ∧
    ((∃ low, decodeCmd16 w = .ok (.illegalOp8to15 low)) ↔ w &&& 0x8000#16 = 0x8000#16)

/-- R86: the classification of a command word, in its order, and what a rejected word does in every state. The three classes
exclude each other by their form. -/
def Obligations.WordClassification : Prop :=
  ∀ (w : Word16) (s : State),
    if w.toNat / 2 ^ 12 ≥ 7 then hostCmd w s = .next (s.rejected 1#3)
    else if w.toNat / 2 ^ 8 % 2 ^ 4 ≠ 0 ∨ (w.toNat % 2 ^ 8 ≠ 0 ∧ w.toNat / 2 ^ 12 ∈ [0, 1, 4, 5]) then
      hostCmd w s = .next (s.rejected 2#3)
    else ∃ i ∈ [.nop, .clr, .pushp (w.setWidth 8), .pushs (w.setWidth 8), .start, .popc, .rdreg (w.setWidth 8)],
      encode i = .cmd16 w ∧ hostCmd w s = exec i s

/-! ## Host commands -/

/-- R180, R81: a command word gets exactly one response, in every state that meets R38 item 1, and the response is a performed
command's with its data byte, or a rejection's with one of the six causes. -/
def Obligations.EveryWordOneResponse : Prop :=
  ∀ (w : Word16) (s : State), s.eng.Bounded s.cfg →
    ∃ t r, hostCmd w s = .next t ∧ t.responses = s.responses ++ [r] ∧
      ((∃ d, r = okWord d) ∨ r ∈ [0x1000#16, 0x2000#16, 0x3000#16, 0x4000#16, 0x5000#16, 0x7000#16])

/-- R181 and R185: `NOP` changes nothing and is acknowledged; `START` in `IDLE` selects `A_INIT`, elsewhere it is rejected
`WRONG_STATE`. -/
def Obligations.NopAndStartComplete : Prop :=
  encode .nop = .cmd16 0x0000#16 ∧ encode .start = .cmd16 0x4000#16 ∧
  ∀ s : State,
    exec .nop s = .next (s.replied s.eng 0x8000#16) ∧
    (s.eng.stage = 0#5 → exec .start s = .next (s.replied { s.eng with stage := 1#5 } 0x8000#16)) ∧
    (s.eng.stage ≠ 0#5 → exec .start s = .next (s.rejected 3#3)) ∧
    rejectsReserved 0 s ∧ rejectsReserved 4 s

/-- R182: `CLR` in `IDLE`, `DONE` and `FAULT` leaves the all-zero engine, elsewhere it is rejected. -/
def Obligations.ClrCompletes : Prop :=
  encode .clr = .cmd16 0x1000#16 ∧
  ∀ s : State,
    (s.eng.stage ∈ [0#5, 29#5, 30#5] → ∃ e, exec .clr s = .next (s.replied e 0x8000#16) ∧ e.AllZero ∧ e = Engine.reset) ∧
    (s.eng.stage ∉ [0#5, 29#5, 30#5] → exec .clr s = .next (s.rejected 3#3)) ∧
    rejectsReserved 1 s

/-- R183: `PUSHP` stores the byte at `PWLEN`; the push that finds `PW` full is fatal; outside `IDLE` it is rejected. -/
def Obligations.PushpCompletes : Prop :=
  ∀ (b : Byte) (s : State),
    encode (.pushp b) = .cmd16 (0x20#8 ++ b) ∧
    (s.eng.stage = 0#5 → s.eng.pwLen < s.cfg.pwMax → s.eng.pw.wf →
      ∃ m : Memory,
        exec (.pushp b) s = .next (s.replied { s.eng with pw := m, pwLen := s.eng.pwLen + 1 } 0x8000#16) ∧
        ∀ k, m.read k = if k = s.eng.pwLen then b else s.eng.pw.read k) ∧
    (s.eng.stage = 0#5 → s.eng.pwLen = s.cfg.pwMax →
      exec (.pushp b) s =
        .next (s.replied (Engine.faulted { s.eng with cmdErr := true, rejCode := 7#3 } 1#2) 0x7000#16)) ∧
    (s.eng.stage ≠ 0#5 → exec (.pushp b) s = .next (s.rejected 3#3)) ∧
    rejectsReserved 2 s

/-- R184: `PUSHS` stores the byte at `SALTLEN` while fewer than 16 are held, and acknowledges the later ones. -/
def Obligations.PushsCompletes : Prop :=
  ∀ (b : Byte) (s : State),
    encode (.pushs b) = .cmd16 (0x30#8 ++ b) ∧
    (s.eng.stage = 0#5 → s.eng.saltLen.toNat < 16 → s.eng.salt.wf →
      ∃ m : Memory,
        exec (.pushs b) s = .next (s.replied { s.eng with salt := m, saltLen := s.eng.saltLen + 1#5 } 0x8000#16) ∧
        ∀ k, m.read k = if k = s.eng.saltLen.toNat then b else s.eng.salt.read k) ∧
    (s.eng.stage = 0#5 → 16 ≤ s.eng.saltLen.toNat → exec (.pushs b) s = .next (s.replied s.eng 0x8000#16)) ∧
    (s.eng.stage ≠ 0#5 → exec (.pushs b) s = .next (s.rejected 3#3)) ∧
    rejectsReserved 3 s

/-- R186: `POPC` in `DONE` returns the next output byte and advances `OUTPTR`; with none left, or outside `DONE`, it is
rejected. -/
def Obligations.PopcCompletes : Prop :=
  encode .popc = .cmd16 0x5000#16 ∧
  ∀ s : State,
    (s.eng.stage = 29#5 → s.eng.outPtr.toNat < s.eng.outLen.toNat → s.eng.outLen.toNat ≤ 106 →
      exec .popc s =
        .next (s.replied { s.eng with outPtr := s.eng.outPtr + 1#7 } (okWord (s.eng.out.read s.eng.outPtr.toNat)))) ∧
    (s.eng.stage = 29#5 → s.eng.outPtr = s.eng.outLen → exec .popc s = .next (s.rejected 4#3)) ∧
    (s.eng.stage ≠ 29#5 → exec .popc s = .next (s.rejected 3#3)) ∧
    rejectsReserved 5 s

/-- R187 with the selectors of 10_state.md R36: `RDREG` returns the byte of the register, in every state, and changes nothing
else; a reserved selector is rejected. -/
def Obligations.RdregCompletes : Prop :=
  ∀ s : State,
    let shows := fun (sel d : Byte) => exec (.rdreg sel) s = .next (s.replied s.eng (okWord d))
    shows 0x00#8 s.eng.status ∧
    shows 0x01#8 (s.eng.errCode.setWidth 8) ∧
    shows 0x02#8 (s.eng.rejCode.setWidth 8) ∧
    shows 0x03#8 (s.eng.stage.setWidth 8) ∧
    shows 0x04#8 (s.eng.saltLen.setWidth 8) ∧
    shows 0x05#8 (s.eng.outLen.setWidth 8) ∧
    shows 0x06#8 (s.eng.outPtr.setWidth 8) ∧
    shows 0x07#8 (BitVec.ofNat 8 s.eng.r.toNat) ∧
    shows 0x08#8 (BitVec.ofNat 8 (s.eng.r.toNat / 2 ^ 8)) ∧
    (∀ j < 4, shows (0x10#8 + BitVec.ofNat 8 j) (BitVec.ofNat 8 (s.eng.pwLen / 2 ^ (8 * j)))) ∧
    (∀ sel : Byte, 0x09 ≤ sel.toNat → sel.toNat ≤ 0x0F ∨ 0x14 ≤ sel.toNat →
      exec (.rdreg sel) s = .next (s.rejected 5#3)) ∧
    rejectsReserved 6 s ∧
    ∀ sel : Byte, encode (.rdreg sel) = .cmd16 (0x60#8 ++ sel)

/-- R188: every word with an opcode from 7 to 15 is rejected `ILLEGAL_OPCODE`, in every state. -/
def Obligations.IllegalWordsRejected : Prop :=
  ∀ s : State,
    (∀ low, exec (.illegalOp7 low) s = .next (s.rejected 1#3)) ∧
    (∀ low, exec (.illegalOp8to15 low) s = .next (s.rejected 1#3)) ∧
    ∀ w : Word16, 7 ≤ w.toNat / 2 ^ 12 → hostCmd w s = .next (s.rejected 1#3)

/-- 10_state.md R34 and R37: the bits of `STATUS`, the two pins, and the ten values `STATUS` can take in a state whose `STAGE` is
not the reserved code. -/
def Obligations.StatusView : Prop :=
  ∀ e : Engine,
    (e.status.getLsbD 0 = true ↔ 1 ≤ e.stage.toNat ∧ e.stage.toNat ≤ 28) ∧
    (e.status.getLsbD 1 = true ↔ e.stage.toNat = 29) ∧
    (e.status.getLsbD 2 = true ↔ e.stage.toNat = 30) ∧
    e.status.getLsbD 3 = e.cmdErr ∧
    (e.status.getLsbD 4 = true ↔ e.stage.toNat = 29 ∧ e.outPtr.toNat < e.outLen.toNat) ∧
    e.status.toNat < 2 ^ 5 ∧
    e.donePin = e.status.getLsbD 1 ∧ e.faultPin = e.status.getLsbD 2 ∧
    (e.stage ≠ 31#5 →
      e.status ∈ [0x00#8, 0x08#8, 0x01#8, 0x09#8, 0x12#8, 0x1A#8, 0x02#8, 0x0A#8, 0x04#8, 0x0C#8] ∧
      (e.status &&& 0x07#8 = 0x00#8 ↔ e.stage = 0#5))

/-- R189: which command is accepted in which class of `STAGE`, and that no command performed while BUSY writes anything but the
two error registers and its response. -/
def Obligations.AcceptanceByClass : Prop :=
  (∀ (s : State) (b : Byte),
    (s.eng.stage ≠ 0#5 → ∀ i ∈ [.pushp b, .pushs b, .start], exec i s = .next (s.rejected 3#3)) ∧
    (s.eng.stage ≠ 29#5 → exec .popc s = .next (s.rejected 3#3)) ∧
    (s.eng.isBusy = true → exec .clr s = .next (s.rejected 3#3)) ∧
    (s.eng.Bounded s.cfg →
      ∀ i, (i ∈ [.nop, .rdreg b]) ∨ (s.eng.stage ∈ [0#5, 29#5, 30#5] ∧ i = .clr) ∨
          (s.eng.stage = 0#5 ∧ i ∈ [.pushp b, .pushs b, .start]) ∨ (s.eng.stage = 29#5 ∧ i = .popc) →
        ∃ t r, exec i s = .next t ∧ t.responses = s.responses ++ [r] ∧ r ≠ 0x3000#16)) ∧
  ∀ (s t : State) (w : Word16), s.eng.isBusy = true → hostCmd w s = .next t →
    t = { s with
      eng := { s.eng with cmdErr := t.eng.cmdErr, rejCode := t.eng.rejCode }
      responses := t.responses }

/-- 60_exceptions.md R223 and 10_state.md R35: a response without the acknowledge bit comes with `CMDERR = 1` and its cause in
`REJCODE`, and, but for the overflow of the password, with nothing else; a performed command other than `CLR`, and every
sequencer step, leaves both registers alone. -/
def Obligations.RejectionWritesOnlyErrors : Prop :=
  (∀ (w : Word16) (s t : State) (r : Word16), hostCmd w s = .next t → t.responses = s.responses ++ [r] →
    (r.getLsbD 15 = false →
      t.eng.cmdErr = true ∧ t.eng.rejCode = r.extractLsb' 12 3 ∧ r.extractLsb' 0 12 = 0#12 ∧
      (r ≠ 0x7000#16 → t = s.rejected (r.extractLsb' 12 3))) ∧
    (r.getLsbD 15 = true → w ≠ 0x1000#16 → t.eng.cmdErr = s.eng.cmdErr ∧ t.eng.rejCode = s.eng.rejCode)) ∧
  ∀ s t : State, seqStep s = .next t → t.eng.cmdErr = s.eng.cmdErr ∧ t.eng.rejCode = s.eng.rejCode

/-! ## Sequencer operations -/

/-- R121, R131, R156: `A_INIT`, `M_INIT` and `R_INIT` start a context. -/
def Obligations.StartContext : Prop :=
  decodeStage5 1#5 = .ok .aInit ∧ decodeStage5 6#5 = .ok .mInit ∧ decodeStage5 20#5 = .ok .rInit ∧
  ∀ s : State,
    portOutcome .aInit s { s.eng with ctx := { isOpen := true, msg := [] }, stage := 2#5 } ∧
    portOutcome .mInit s { s.eng with ctx := { isOpen := true, msg := [] }, stage := 7#5 } ∧
    portOutcome .rInit s { s.eng with ctx := { isOpen := true, msg := [] }, stage := 21#5 }

/-- R141, R146: `P_INIT` and `S_INIT` start a context and load the copy counter; `16 + RESULT[0]` does not wrap. -/
def Obligations.LoadCounters : Prop :=
  decodeStage5 12#5 = .ok .pInit ∧ decodeStage5 16#5 = .ok .sInit ∧
  ∀ s : State,
    portOutcome .pInit s
      { s.eng with ctx := { isOpen := true, msg := [] }, cnt := s.eng.pwLen, stage := 13#5 } ∧
    portOutcome .sInit s
      { s.eng with ctx := { isOpen := true, msg := [] }, cnt := 16 + (s.eng.byteAt .result 0).toNat, stage := 17#5 }

/-- R122, R124, R132: `A_PW1`, `A_PW2` and `M_PW` feed the password. -/
def Obligations.PasswordFeeds : Prop :=
  decodeStage5 2#5 = .ok .aPw1 ∧ decodeStage5 4#5 = .ok .aPw2 ∧ decodeStage5 7#5 = .ok .mPw ∧
  ∀ s : State, s.eng.ctx.isOpen = true → s.inputsFit →
    let fed := { s.eng.ctx with msg := s.eng.ctx.msg ++ s.eng.password }
    portOutcome .aPw1 s { s.eng with ctx := fed, stage := 3#5 } ∧
    portOutcome .aPw2 s { s.eng with ctx := fed, stage := 5#5 } ∧
    portOutcome .mPw s { s.eng with ctx := fed, stage := 8#5 }

/-- R123, R133: `A_SALT` and `M_SALT` feed the salt, and `M_SALT` loads the cover counter. -/
def Obligations.SaltFeeds : Prop :=
  decodeStage5 3#5 = .ok .aSalt ∧ decodeStage5 8#5 = .ok .mSalt ∧
  ∀ s : State, s.eng.ctx.isOpen = true → s.inputsFit →
    let fed := { s.eng.ctx with msg := s.eng.ctx.msg ++ s.eng.saltBytes }
    portOutcome .aSalt s { s.eng with ctx := fed, stage := 4#5 } ∧
    portOutcome .mSalt s { s.eng with ctx := fed, cnt := s.eng.pwLen, stage := 9#5 }

/-- R134: `M_COVER` feeds the first `min(CNT, 64)` bytes of `ALT`, or exits and loads `LSH`. -/
def Obligations.CoverLoopStep : Prop :=
  decodeStage5 9#5 = .ok .mCover ∧
  ∀ s : State,
    (0 < s.eng.cnt → s.eng.ctx.isOpen = true →
      portOutcome .mCover s
        { s.eng with
          ctx := { s.eng.ctx with msg := s.eng.ctx.msg ++ s.eng.alt.toList.take (min s.eng.cnt 64) }
          cnt := s.eng.cnt - min s.eng.cnt 64
          stage := 9#5 }) ∧
    (s.eng.cnt = 0 → exec .mCover s = .next { s with eng := { s.eng with lsh := s.eng.pwLen, stage := 10#5 } })

/-- R135: `M_BITS` feeds `ALT` for a 1 and the password for a 0 and shifts, or exits. -/
def Obligations.BitLoopStep : Prop :=
  decodeStage5 10#5 = .ok .mBits ∧
  ∀ s : State,
    (s.eng.lsh ≠ 0 → s.eng.ctx.isOpen = true → s.inputsFit →
      portOutcome .mBits s
        { s.eng with
          ctx := { s.eng.ctx with
            msg := s.eng.ctx.msg ++ if s.eng.lsh % 2 = 1 then s.eng.alt.toList else s.eng.password }
          lsh := s.eng.lsh / 2
          stage := 10#5 }) ∧
    (s.eng.lsh = 0 → exec .mBits s = .next { s with eng := { s.eng with stage := 11#5 } })

/-- R142, R147: `P_REP` and `S_REP` feed one copy and count it, or exit. -/
def Obligations.CopyLoopSteps : Prop :=
  decodeStage5 13#5 = .ok .pRep ∧ decodeStage5 17#5 = .ok .sRep ∧
  ∀ s : State,
    (0 < s.eng.cnt → s.eng.ctx.isOpen = true → s.inputsFit →
      portOutcome .pRep s
        { s.eng with
          ctx := { s.eng.ctx with msg := s.eng.ctx.msg ++ s.eng.password }
          cnt := s.eng.cnt - 1
          stage := 13#5 } ∧
      portOutcome .sRep s
        { s.eng with
          ctx := { s.eng.ctx with msg := s.eng.ctx.msg ++ s.eng.saltBytes }
          cnt := s.eng.cnt - 1
          stage := 17#5 }) ∧
    (s.eng.cnt = 0 →
      exec .pRep s = .next { s with eng := { s.eng with stage := 14#5 } } ∧
      exec .sRep s = .next { s with eng := { s.eng with stage := 18#5 } })

/-- R125, R136, R143, R148: `A_FIN`, `M_FIN`, `P_FIN` and `S_FIN` take the digest of the message into their register and close
the context. -/
def Obligations.DigestsTaken : Prop :=
  decodeStage5 5#5 = .ok .aFin ∧ decodeStage5 11#5 = .ok .mFin ∧ decodeStage5 14#5 = .ok .pFin ∧
    decodeStage5 18#5 = .ok .sFin ∧
  ∀ s : State, s.eng.ctx.isOpen = true →
    let closed : DigestCtx := { isOpen := false, msg := [] }
    portOutcome .aFin s { s.eng with ctx := closed, alt := sha512 s.eng.ctx.msg, stage := 6#5 } ∧
    portOutcome .mFin s { s.eng with ctx := closed, result := sha512 s.eng.ctx.msg, stage := 12#5 } ∧
    portOutcome .pFin s { s.eng with ctx := closed, dp := sha512 s.eng.ctx.msg, stage := 15#5 } ∧
    portOutcome .sFin s { s.eng with ctx := closed, ds := sha512 s.eng.ctx.msg, stage := 19#5 }

/-- R144, R149: `P_FILL` and `S_FILL` build the sequences byte by byte, issue nothing and leave every byte past the valid
ones. -/
def Obligations.SequenceFills : Prop :=
  decodeStage5 15#5 = .ok .pFill ∧ decodeStage5 19#5 = .ok .sFill ∧
  ∀ s : State, s.inputsFit →
    (s.eng.pBuf.wf → ∃ m : Memory,
      exec .pFill s = .next { s with eng := { s.eng with pBuf := m, stage := 16#5 } } ∧
      ∀ k, m.read k = if k < s.eng.pwLen then s.eng.byteAt .dp (k % 64) else s.eng.pBuf.read k) ∧
    (s.eng.sBuf.wf → ∃ m : Memory,
      exec .sFill s = .next { s with eng := { s.eng with sBuf := m, r := 0#13, stage := 20#5 } } ∧
      ∀ k, m.read k = if k < s.eng.saltLen.toNat then s.eng.byteAt .ds k else s.eng.sBuf.read k)

/-- R157 to R160: the four feeds of a round; a feed that is left out issues nothing and only advances `STAGE`. -/
def Obligations.RoundFeeds : Prop :=
  decodeStage5 21#5 = .ok .rF1 ∧ decodeStage5 22#5 = .ok .rF2 ∧ decodeStage5 23#5 = .ok .rF3 ∧
    decodeStage5 24#5 = .ok .rF4 ∧
  ∀ s : State, s.eng.ctx.isOpen = true → s.inputsFit →
    let fed := fun x => { s.eng.ctx with msg := s.eng.ctx.msg ++ x }
    let odd := s.eng.r.toNat % 2 = 1
    portOutcome .rF1 s
      { s.eng with ctx := fed (if odd then s.eng.pBytes else s.eng.result.toList), stage := 22#5 } ∧
    (s.eng.r.toNat % 3 ≠ 0 → portOutcome .rF2 s { s.eng with ctx := fed s.eng.sBytes, stage := 23#5 }) ∧
    (s.eng.r.toNat % 3 = 0 → exec .rF2 s = .next { s with eng := { s.eng with stage := 23#5 } }) ∧
    (s.eng.r.toNat % 7 ≠ 0 → portOutcome .rF3 s { s.eng with ctx := fed s.eng.pBytes, stage := 24#5 }) ∧
    (s.eng.r.toNat % 7 = 0 → exec .rF3 s = .next { s with eng := { s.eng with stage := 24#5 } }) ∧
    portOutcome .rF4 s
      { s.eng with ctx := fed (if odd then s.eng.result.toList else s.eng.pBytes), stage := 25#5 }

/-- R161: `R_FIN` takes the round's digest; below 4999 it counts the round, else it goes on to the encoding stage. -/
def Obligations.RoundEnds : Prop :=
  decodeStage5 25#5 = .ok .rFin ∧
  ∀ s : State, s.eng.ctx.isOpen = true →
    let taken := { s.eng with ctx := { isOpen := false, msg := [] }, result := sha512 s.eng.ctx.msg }
    (s.eng.r.toNat < 4999 → portOutcome .rFin s { taken with r := s.eng.r + 1#13, stage := 20#5 }) ∧
    (4999 ≤ s.eng.r.toNat → portOutcome .rFin s { taken with stage := 26#5 })

/-- R171: `E_PREFIX` writes `$6$`, the salt and `$`. -/
def Obligations.PrefixWritten : Prop :=
  decodeStage5 26#5 = .ok .ePrefix ∧
  ∀ s : State, s.inputsFit → s.eng.out.wf →
    ∃ m : Memory,
      exec .ePrefix s =
        .next { s with eng := { s.eng with
          out := m, outLen := BitVec.ofNat 7 (4 + s.eng.saltLen.toNat), outPtr := 0#7, g := 0#5, stage := 27#5 } } ∧
      ∀ k, m.read k =
        if k < 4 + s.eng.saltLen.toNat then
          ([0x24#8, 0x36#8, 0x24#8] ++ s.eng.saltBytes ++ [0x24#8]).getD k 0#8
        else s.eng.out.read k

/-- R172: `E_GROUP` writes the four characters of triple `G`, low 6 bits first, or exits. -/
def Obligations.GroupEncoded : Prop :=
  decodeStage5 27#5 = .ok .eGroup ∧
  ∀ s : State,
    (s.eng.g.toNat < 21 → s.eng.outLen.toNat ≤ 102 → s.eng.out.wf →
      ∃ m : Memory,
        exec .eGroup s =
          .next { s with eng := { s.eng with
            out := m, outLen := s.eng.outLen + 4#7, g := s.eng.g + 1#5, stage := 27#5 } } ∧
        ∀ k, m.read k =
          if s.eng.outLen.toNat ≤ k ∧ k < s.eng.outLen.toNat + 4 then
            charOf (tripleVal s.eng.result (closedTriple s.eng.g.toNat) / 2 ^ (6 * (k - s.eng.outLen.toNat)) % 2 ^ 6)
          else s.eng.out.read k) ∧
    (21 ≤ s.eng.g.toNat → exec .eGroup s = .next { s with eng := { s.eng with stage := 28#5 } })

/-- R173, R174: `E_LAST` writes the two characters of byte 63, zeroises everything else but the output and the error registers
and enters `DONE`. -/
def Obligations.LastEncoded : Prop :=
  decodeStage5 28#5 = .ok .eLast ∧
  ∀ s : State, s.eng.outLen.toNat ≤ 104 → s.eng.out.wf →
    ∃ m : Memory,
      exec .eLast s =
        .next { s with eng := { Engine.reset with
          stage := 29#5
          out := m
          outLen := s.eng.outLen + 2#7
          outPtr := s.eng.outPtr
          cmdErr := s.eng.cmdErr
          rejCode := s.eng.rejCode
          errCode := s.eng.errCode } } ∧
      ∀ k, m.read k =
        if k = s.eng.outLen.toNat then charOf (byteVal s.eng.result 63 % 2 ^ 6)
        else if k = s.eng.outLen.toNat + 1 then charOf (byteVal s.eng.result 63 / 2 ^ 6)
        else s.eng.out.read k

/-! ## The digest port and its failure -/

/-- R111 to R113: the three digest-port operations. That the reply of `DIG.FINAL` stands in `digReply` is the model's convention
(log entry 7). -/
def Obligations.PortOperations : Prop :=
  ∀ s : State,
    let opened := fun m => { s.eng with ctx := { isOpen := true, msg := m } }
    (s.failsAt 0 = false →
      exec .digStart s = .next { s.answered (opened []) with digReply := none } ∧
      (s.eng.ctx.isOpen = true →
        (∀ x, exec (.digFeed x) s = .next { s.answered (opened (s.eng.ctx.msg ++ x)) with digReply := none }) ∧
        exec .digFinal s =
          .next { s.answered { s.eng with ctx := { isOpen := false, msg := [] } } with
            digReply := some (sha512 s.eng.ctx.msg) })) ∧
    (s.failsAt 0 = true →
      let failed := { s.answered (s.eng.faulted 2#2) with digReply := none }
      exec .digStart s = .next failed ∧
      (s.eng.ctx.isOpen = true → (∀ x, exec (.digFeed x) s = .next failed) ∧ exec .digFinal s = .next failed))

/-- `DIG.FEED` and `DIG.FINAL` stop where the context is closed: 40_digest_port.md requires it open and 93 U14 says stuck (the
model's form of it, log entry 10: the fault `digestPortClosed`). -/
def Obligations.ClosedPortStops : Prop :=
  ∀ (s : State) (x : List Byte), s.eng.ctx.isOpen = false →
    exec (.digFeed x) s = .fault .digestPortClosed ∧ exec .digFinal s = .fault .digestPortClosed

/-- R114, R227, R224: a `fail` of the digest unit turns the issuing sequencer operation, whichever it is, into fault entry with
cause `DIGEST_FAIL`; a unit that cannot fail answers ok, and one that can answers what the environment gives. -/
def Obligations.DigestFailureEntersFault : Prop :=
  (∀ (c : BitVec 5) (i : Instr) (s : State), decodeStage5 c = .ok i → issuesPortOp i s.eng → s.inputsFit →
    startsContext i ∨ s.eng.ctx.isOpen = true → s.failsAt 0 = true →
    exec i s = .next (s.answered (s.eng.faulted 2#2))) ∧
  (∀ (s : State) (k : Nat), s.cfg.digestCanFail = false → s.failsAt k = false) ∧
  ∀ (s : State) (k : Nat) (a : Bool), s.cfg.digestCanFail = true → s.answers[k]? = some a → s.failsAt k = a

/-- R116: a sequencer operation draws exactly one answer of the digest unit where the table of R116 says it issues a digest-port
operation, and none elsewhere; only an issuing step can fault. -/
def Obligations.PortUse : Prop :=
  ∀ (c : BitVec 5) (i : Instr) (s t : State), decodeStage5 c = .ok i → exec i s = .next t →
    (issuesPortOp i s.eng → t.answers = s.answers.tail ∧ t.digCount = s.digCount + 1) ∧
    (¬issuesPortOp i s.eng → t.answers = s.answers ∧ t.digCount = s.digCount) ∧
    (t.eng.stage = 30#5 → issuesPortOp i s.eng ∧ s.failsAt 0 = true)

/-! ## Steps -/

/-- A step runs the decoded instruction of the agent whose turn it is, on the state without that turn (00_scope.md R11; the turn
as data is the model's, log entry 1); a `STAGE` that selects no operation leaves everything as it is. -/
def Obligations.StepRunsDecoded : Prop :=
  ∀ (s : State) (rest : List Event),
    (∀ w i, s.agenda = .hostCmd w :: rest → decodeCmd16 w = .ok i → step s = exec i { s with agenda := rest }) ∧
    (∀ w err, s.agenda = .hostCmd w :: rest → decodeCmd16 w = .error err →
      step s = .next (State.rejected { s with agenda := rest } 2#3)) ∧
    (∀ i, s.agenda = .seqTurn :: rest → decodeStage5 s.eng.stage = .ok i →
      step s = exec i { s with agenda := rest }) ∧
    (∀ i, s.agenda = [] → decodeStage5 s.eng.stage = .ok i → step s = exec i s) ∧
    (s.agenda = .seqTurn :: rest → s.eng.isBusy = false → step s = .next { s with agenda := rest }) ∧
    (s.agenda = [] → s.eng.isBusy = false → step s = .next s) ∧
    (s.agenda = .hardReset :: rest → step s = .next { s with agenda := rest, eng := Engine.reset })

/-- 10_state.md R26: the next-`STAGE` column, and that the only backward transition is 25 to 20. -/
def Obligations.StageTransitions : Prop :=
  ∀ s t : State, s.eng.isBusy = true → seqStep s = .next t → t.eng.stage ≠ 30#5 →
    t.eng.stage.toNat = s.eng.nextStage ∧
    (t.eng.stage.toNat < s.eng.stage.toNat → s.eng.stage = 25#5 ∧ t.eng.stage = 20#5)

/-- 10_state.md R27: only a sequencer operation, `START`, `CLR`, reset and fault entry write `STAGE`, and nothing leads to code
31. -/
def Obligations.StageWriters : Prop :=
  ∀ s t : State, step s = .next t →
    (t.eng.stage = s.eng.stage ∨
      (s.agenda.headD .seqTurn = .seqTurn ∧ s.eng.isBusy = true ∧
        (t.eng.stage = 30#5 ∨ t.eng.stage.toNat = s.eng.nextStage)) ∨
      (s.agenda.head? = some (.hostCmd 0x4000#16) ∧ s.eng.stage = 0#5 ∧ t.eng.stage = 1#5) ∨
      (s.agenda.head? = some (.hostCmd 0x1000#16) ∧ s.eng.stage ∈ [29#5, 30#5] ∧ t.eng.stage = 0#5) ∨
      (s.agenda.head? = some .hardReset ∧ t.eng.stage = 0#5) ∨
      (∃ b : Byte, s.agenda.head? = some (.hostCmd (0x20#8 ++ b)) ∧ s.eng.stage = 0#5 ∧
        s.eng.pwLen = s.cfg.pwMax ∧ t.eng.stage = 30#5)) ∧
    (t.eng.stage = 31#5 → s.eng.stage = 31#5)

/-! ## Invariants -/

/-- The invariant of R38 holds right after reset, whatever the parameters. -/
def Obligations.ResetInvariant : Prop := ∀ p : Params, (State.resetWith p).Inv

/-- From every state that meets the invariant of R38, the step of whichever agent comes next completes, and its next state
meets the invariant. -/
def Obligations.StepKeepsInvariant : Prop := ∀ s : State, s.Inv → ∃ t, step s = .next t ∧ t.Inv

/-- 10_state.md R21 and R38 item 9: no step writes a parameter, and no step changes the inputs of a run while BUSY. -/
def Obligations.ParametersAndInputsFixed : Prop :=
  ∀ s t : State, step s = .next t →
    t.cfg = s.cfg ∧
    (s.eng.isBusy = true → t.eng.isBusy = true →
      t.eng.pw = s.eng.pw ∧ t.eng.pwLen = s.eng.pwLen ∧ t.eng.salt = s.eng.salt ∧ t.eng.saltLen = s.eng.saltLen)

/-- 10_state.md R39 and 70_reset_and_hazards.md R250, R251: after reset, and after `HardReset` from any state, every piece of the
engine's state is zero, `STATUS` reads 0x00 and both pins are low. -/
def Obligations.ResetValues : Prop :=
  ∀ (p : Params) (s : State),
    (State.resetWith p).eng.AllZero ∧ (State.resetWith p).eng.status = 0x00#8 ∧
    ∃ e : Engine, hardReset s = .next { s with eng := e } ∧ e.AllZero ∧ e = (State.resetWith p).eng ∧
      e.status = 0x00#8 ∧ e.donePin = false ∧ e.faultPin = false

/-- 70_reset_and_hazards.md R253: `IDLE` is entered only by `HardReset` or `CLR`, with the all-zero state; in `IDLE` only
`PUSHP` and `PUSHS` change anything but the two error registers; and a computation starts with `START` in `IDLE` only. -/
def Obligations.NothingCarriesOver : Prop :=
  ∀ s t : State, step s = .next t →
    (t.eng.stage = 0#5 → s.eng.stage ≠ 0#5 →
      s.agenda.head? ∈ [some .hardReset, some (.hostCmd 0x1000#16)] ∧ t.eng.AllZero ∧ t.eng = Engine.reset) ∧
    (s.eng.stage = 0#5 → s.agenda.head? ∈ [some .hardReset, some (.hostCmd 0x1000#16)] → t.eng = Engine.reset) ∧
    (t.eng.stage = 0#5 → s.eng.stage = 0#5 → s.agenda.head? ∉ [some .hardReset, some (.hostCmd 0x1000#16)] →
      t.eng = { s.eng with
        pw := t.eng.pw, pwLen := t.eng.pwLen, salt := t.eng.salt, saltLen := t.eng.saltLen
        cmdErr := t.eng.cmdErr, rejCode := t.eng.rejCode } ∧
      ((∀ b : Byte, s.agenda.head? ∉ [some (.hostCmd (0x20#8 ++ b)), some (.hostCmd (0x30#8 ++ b))]) →
        t.eng = { s.eng with cmdErr := t.eng.cmdErr, rejCode := t.eng.rejCode })) ∧
    (s.eng.isBusy = false → t.eng.isBusy = true →
      s.agenda.head? = some (.hostCmd 0x4000#16) ∧ s.eng.stage = 0#5 ∧ t.eng = { s.eng with stage := 1#5 })

/-! ## What depends on what -/

/-- 10_state.md R35: no sequencer operation reads `CMDERR`, `REJCODE` or anything of the host's port, and none writes the two
registers. -/
def Obligations.RunIgnoresErrorRegisters : Prop :=
  ∀ s t s' : State, SameRun s t → seqStep s = .next s' →
    ∃ t', seqStep t = .next t' ∧ SameRun s' t' ∧
      t'.eng.cmdErr = t.eng.cmdErr ∧ t'.eng.rejCode = t.eng.rejCode ∧ t'.responses = t.responses

/-- 20_memory.md R68 item 4: what a run computes does not depend on the host commands that fall between its steps while it is
BUSY. -/
def Obligations.InterleavingIrrelevant : Prop :=
  ∀ s : State, s.Inv → .hardReset ∉ s.agenda →
    (∀ k ≤ turnsOf s.agenda, ∃ u, run k { s with agenda := [] } = .next u ∧ u.eng.isBusy = true) →
    ∃ t u, run s.agenda.length s = .next t ∧ run (turnsOf s.agenda) { s with agenda := [] } = .next u ∧
      SameRun u t ∧ t.agenda = []

/-- 20_memory.md R67: the response to a command depends only on the registers of R36 and, in `DONE`, the next output byte; so
no command reads the password, the salt bytes, a digest, `P`, `S` or the context. -/
def Obligations.HostSeesOnlyView : Prop :=
  ∀ (w : Word16) (s t s' : State), s.eng.hostView = t.eng.hostView → s.cfg = t.cfg → hostCmd w s = .next s' →
    ∃ t' r, hostCmd w t = .next t' ∧ s'.responses = s.responses ++ [r] ∧ t'.responses = t.responses ++ [r]

/-! ## Data encodings -/

/-- 30_encoding.md R93 to R97: the encoded digest, character by character, as arithmetic; the table equals its closed form, and
every index from 0 to 63 occurs exactly once. -/
def Obligations.EncodedDigest : Prop :=
  (∀ g < 21, ((perm g).1.val, (perm g).2.1.val, (perm g).2.2.val) = closedTriple g) ∧
  (∀ n < 64, (permTable.flatMap (fun t => [t.1.val, t.2.1.val, t.2.2.val]) ++ [permLast.val]).count n = 1) ∧
  ∀ d : Digest,
    (encodeDigest d).length = 86 ∧
    (∀ g < 21, ∀ j < 4,
      (encodeDigest d)[4 * g + j]? = some (charOf (tripleVal d (closedTriple g) / 2 ^ (6 * j) % 2 ^ 6))) ∧
    (encodeDigest d)[84]? = some (charOf (byteVal d 63 % 2 ^ 6)) ∧
    (encodeDigest d)[85]? = some (charOf (byteVal d 63 / 2 ^ 6)) ∧
    ∃ c ∈ [0x2E#8, 0x2F#8, 0x30#8, 0x31#8], (encodeDigest d)[85]? = some c

/-- No byte of a digest is lost in its encoding (from R93 to R97). -/
def Obligations.EncodingInjective : Prop := ∀ d d' : Digest, encodeDigest d = encodeDigest d' → d = d'

/-- 30_encoding.md R90: the format of the output string for every password and salt, its length, and that only the first 16
bytes of the salt matter. -/
def Obligations.OutputFormat : Prop :=
  ∀ password salt : List Byte,
    ∃ encoded : List Byte,
      crypt6 password salt = [0x24#8, 0x36#8, 0x24#8] ++ salt.take 16 ++ [0x24#8] ++ encoded ∧
      encoded.length = 86 ∧ (∀ c ∈ encoded, ∃ i < 64, c = charOf i) ∧
      (crypt6 password salt).length = 90 + min salt.length 16 ∧
      crypt6 password (salt.take 16) = crypt6 password salt

/-- The function layer against its formulas: the cover and bit loops (42_main_sum.md R130), the P-sequence as whole copies and a
rest (43_sequence_construction.md R140), the pattern of the rounds (44_round_mixing.md R162), and the lengths of the messages
(70_reset_and_hazards.md R263). -/
def Obligations.FunctionEquations : Prop :=
  (∀ (alt : Digest) (n : Nat), cover alt n = rep alt.toList (n / 64) ++ alt.toList.take (n % 64)) ∧
  (∀ (alt : Digest) (pw : List Byte) (v : Nat),
    bits alt pw v = if v = 0 then [] else (if v % 2 = 1 then alt.toList else pw) ++ bits alt pw (v / 2)) ∧
  (∀ pw : List Byte,
    pSeq pw = rep (dpOf pw).toList (pw.length / 64) ++ (dpOf pw).toList.take (pw.length % 64)) ∧
  (∀ (pw salt : List Byte) (alt : Digest),
    (mainMsg pw salt alt).length =
      2 * pw.length + salt.length + ((Nat.digits 2 pw.length).map fun b => if b = 1 then 64 else pw.length).sum) ∧
  (∀ (pw salt : List Byte) (alt : Digest), (mainMsg pw salt alt).length = mainBytes pw.length salt.length) ∧
  (∀ (r : Nat) (x : Digest) (p s : List Byte), roundMsg r x p s = roundMsg (r % 42) x p s) ∧
  (∀ (r : Nat) (x : Digest) (p s : List Byte), (roundMsg r x p s).length = roundBytes r p.length s.length) ∧
  (∀ len saltLen : Nat,
    ((List.range 5000).map fun r => roundBytes r len saltLen).sum = 5000 * 64 + 9285 * len + 3333 * saltLen) ∧
  ∀ v : Nat, bitlen v = (Nat.digits 2 v).length

/-! ## SHA-512 -/

/-- 47_sha512_function.md R204, R212: the padding has the least number of zero bytes and the length in bits, and a message pads
to `(n + 144) div 128` blocks. -/
def Obligations.PaddingRule : Prop :=
  ∀ m : List Byte,
    (pad m).length % 128 = 0 ∧
    (blocks (pad m)).length = (m.length + 17 + 127) / 128 ∧
    (∀ b ∈ blocks (pad m), b.length = 128) ∧ (blocks (pad m)).flatten = pad m ∧
    ∃ (k : Nat) (len16 : List Byte),
      pad m = m ++ [0x80#8] ++ List.replicate k 0#8 ++ len16 ∧
      (m.length + 1 + k) % 128 = 112 ∧ (∀ j < k, (m.length + 1 + j) % 128 ≠ 112) ∧
      len16.length = 16 ∧
      (m.length < 2 ^ 125 → len16.foldl (fun v b => v * 256 + b.toNat) 0 = 8 * m.length)

/-- 47_sha512_function.md R213: the streaming context returns the digest of the whole message for every sequence of feeds, and
is the abstraction that R213 gives of it. -/
def Obligations.StreamingAgrees : Prop :=
  ∀ feeds : List (List Byte),
    let c := feeds.foldl streamFeed streamStart
    let m := feeds.flatten
    streamFinal c = sha512 m ∧
    c.total = BitVec.ofNat 128 m.length ∧ c.buf.length < 128 ∧
    c.buf = m.drop (128 * (m.length / 128)) ∧
    c.chain = (blocks (m.take (128 * (m.length / 128)))).foldl compress initialChain

/-- 40_digest_port.md R115: `DIG.START`, any feeds, `DIG.FINAL` return the digest of the concatenation, however it was split. -/
def Obligations.OnlyConcatenation : Prop :=
  ∀ (s : State) (feeds : List (List Byte)), s.okFor (feeds.length + 2) →
    execAll ([.digStart] ++ feeds.map .digFeed ++ [.digFinal]) s =
      .next { s.drawn (feeds.length + 2) with
        eng := { s.eng with ctx := { isOpen := false, msg := [] } }
        digReply := some (sha512 feeds.flatten) }

/-! ## Frames -/

/-- What each host command leaves unchanged, in every next state it gives. The overflowing `PUSHP`, which zeroises, and the
accepted `CLR` are the subject of `PushpCompletes` and `ClrCompletes`. -/
def Obligations.FrameHostCommands : Prop :=
  ∀ (s t : State) (i : Instr), exec i s = .next t →
    (i ∈ [.nop] ∨ (∃ sel, i = .rdreg sel) ∨ (∃ low, i = .illegalOp7 low) ∨ (∃ low, i = .illegalOp8to15 low) ∨
        i = .start ∨ i = .popc ∨ (i = .clr ∧ s.eng.stage ∉ [0#5, 29#5, 30#5]) ∨
        (∃ b, i = .pushp b ∧ ¬(s.eng.stage = 0#5 ∧ s.eng.pwLen = s.cfg.pwMax)) ∨ ∃ b, i = .pushs b) →
      t = { s with eng := t.eng, responses := t.responses } ∧
      (∀ sp k, ¬inTarget (storeTarget i s.eng) sp k → t.eng.byteAt sp k = s.eng.byteAt sp k) ∧
      t.eng = { s.eng with
        pw := t.eng.pw, pwLen := t.eng.pwLen, salt := t.eng.salt, saltLen := t.eng.saltLen
        stage := t.eng.stage, outPtr := t.eng.outPtr, cmdErr := t.eng.cmdErr, rejCode := t.eng.rejCode } ∧
      ((∀ b, i ≠ .pushp b) → t.eng.pw = s.eng.pw ∧ t.eng.pwLen = s.eng.pwLen) ∧
      ((∀ b, i ≠ .pushs b) → t.eng.salt = s.eng.salt ∧ t.eng.saltLen = s.eng.saltLen) ∧
      (i ≠ .start → t.eng.stage = s.eng.stage) ∧
      (i ≠ .popc → t.eng.outPtr = s.eng.outPtr)

/-- What each sequencer operation leaves unchanged, in every next state it gives that is no fault entry: the "written by"
columns of 10_state.md R23, R28 and of 20_memory.md R60, R64. `E_LAST`, which zeroises, is the subject of `LastEncoded`; for it the
bytes of `OUT`, `OUTPTR` and the error registers are in this frame. -/
def Obligations.FrameSequencer : Prop :=
  ∀ (c : BitVec 5) (i : Instr) (s t : State), decodeStage5 c = .ok i → exec i s = .next t → t.eng.stage ≠ 30#5 →
    t = { s with eng := t.eng, answers := t.answers, digCount := t.digCount } ∧
    t.eng.cmdErr = s.eng.cmdErr ∧ t.eng.rejCode = s.eng.rejCode ∧ t.eng.errCode = s.eng.errCode ∧
    (i ≠ .ePrefix → t.eng.outPtr = s.eng.outPtr) ∧
    (i ∉ [.ePrefix, .eGroup, .eLast] → t.eng.outLen = s.eng.outLen ∧ t.eng.g = s.eng.g) ∧
    (i = .eLast → ∀ k, k < s.eng.outLen.toNat ∨ s.eng.outLen.toNat + 2 ≤ k →
      t.eng.byteAt .out k = s.eng.byteAt .out k) ∧
    (i ≠ .eLast →
      t.eng.pw = s.eng.pw ∧ t.eng.pwLen = s.eng.pwLen ∧ t.eng.salt = s.eng.salt ∧ t.eng.saltLen = s.eng.saltLen ∧
      (∀ sp k, sp ∈ [.pw, .salt, .p, .s, .out] → ¬inTarget (storeTarget i s.eng) sp k →
        t.eng.byteAt sp k = s.eng.byteAt sp k) ∧
      (i ≠ .aFin → t.eng.alt = s.eng.alt) ∧
      (i ∉ [.mFin, .rFin] → t.eng.result = s.eng.result) ∧
      (i ≠ .pFin → t.eng.dp = s.eng.dp) ∧
      (i ≠ .sFin → t.eng.ds = s.eng.ds) ∧
      (i ∉ [.mSalt, .mCover, .pInit, .pRep, .sInit, .sRep] → t.eng.cnt = s.eng.cnt) ∧
      (i ∉ [.mCover, .mBits] → t.eng.lsh = s.eng.lsh) ∧
      (i ∉ [.sFill, .rFin] → t.eng.r = s.eng.r) ∧
      (¬issuesPortOp i s.eng → t.eng.ctx = s.eng.ctx))

/-! ## The stages and the whole run -/

/-- 41_alternate_sum.md R126: the alternate-sum stage takes five steps; the message at each code; nothing else changes. -/
def Obligations.AlternateSumStage : Prop :=
  ∀ s : State, s.agenda = [] → s.eng.stage = 1#5 → s.inputsFit → s.okFor 5 →
    let pw := s.eng.password
    let salt := s.eng.saltBytes
    let at_ := fun (n : Nat) (c : BitVec 5) (m : List Byte) =>
      run n s = .next { s.drawn n with eng := { s.eng with stage := c, ctx := { isOpen := true, msg := m } } }
    at_ 1 2#5 [] ∧ at_ 2 3#5 pw ∧ at_ 3 4#5 (pw ++ salt) ∧ at_ 4 5#5 (pw ++ salt ++ pw) ∧
    run 5 s = .next { s.drawn 5 with
      eng := { s.eng with stage := 6#5, alt := altSum pw salt, ctx := { isOpen := false, msg := [] } } }

/-- 42_main_sum.md R137: the main-sum stage, its number of steps, and all it changes. That it issues
`4 + ceil(PWLEN / 64) + bitlen(PWLEN)` digest-port operations is counted from the table of 40_digest_port.md R116 and agrees with
the total of 70_reset_and_hazards.md R263, whose parenthesis says one more (log entry 13, DEDUCED). -/
def Obligations.MainSumStage : Prop :=
  ∀ s : State, s.agenda = [] → s.eng.stage = 6#5 → s.inputsFit →
    let len := s.eng.pwLen
    let ops := 4 + coverChunks len + bitlen len
    s.okFor ops →
    run (3 + (coverChunks len + 1) + (bitlen len + 1) + 1) s = .next { s.drawn ops with
      eng := { s.eng with
        stage := 12#5
        result := mainSum s.eng.password s.eng.saltBytes s.eng.alt
        cnt := 0
        lsh := 0
        ctx := { isOpen := false, msg := [] } } }

/-- 43_sequence_construction.md R150: the sequence-construction stage, first `P` and then `S`. -/
def Obligations.SequenceStage : Prop :=
  ∀ s : State, s.agenda = [] → s.eng.stage = 12#5 → s.inputsFit → s.eng.MemForm →
    let len := s.eng.pwLen
    let b0 := s.eng.byteAt .result 0
    s.okFor (len + 2 + (18 + b0.toNat)) →
    ∃ t u : State,
      run (1 + (len + 1) + 1 + 1) s = .next t ∧
      t = { s.drawn (len + 2) with
        eng := { s.eng with
          stage := 16#5
          dp := dpOf s.eng.password
          pBuf := t.eng.pBuf
          cnt := 0
          ctx := { isOpen := false, msg := [] } } } ∧
      t.eng.pBytes = pSeq s.eng.password ∧
      run (1 + (16 + b0.toNat + 1) + 1 + 1) t = .next u ∧
      u = { t.drawn (18 + b0.toNat) with
        eng := { t.eng with
          stage := 20#5
          ds := dsOf s.eng.saltBytes b0
          sBuf := u.eng.sBuf
          r := 0#13 } } ∧
      u.eng.sBytes = sSeq s.eng.saltBytes b0

/-- 44_round_mixing.md R163: the round-mixing stage takes 30000 steps and 27618 digest-port operations and leaves everything but
`RESULT`, `R` and the context. -/
def Obligations.RoundStage : Prop :=
  ∀ s : State, s.agenda = [] → s.eng.stage = 20#5 → s.eng.r = 0#13 → s.inputsFit → s.okFor 27618 →
    run 30000 s = .next { s.drawn 27618 with
      eng := { s.eng with
        stage := 26#5
        r := 4999#13
        result := rounds s.eng.result s.eng.pBytes s.eng.sBytes
        ctx := { isOpen := false, msg := [] } } }

/-- 45_encoding_stage.md R176: the encoding stage takes 24 steps and cannot fault; the output, and `OUTLEN` after each step. -/
def Obligations.EncodingStage : Prop :=
  ∀ s : State, s.agenda = [] → s.eng.stage = 26#5 → s.inputsFit → s.eng.out.wf →
    (∀ k ≤ 22, ∃ t, run (1 + k) s = .next t ∧ t.eng.outLen.toNat = 4 + s.eng.saltLen.toNat + 4 * min k 21) ∧
    ∃ t, run 24 s = .next t ∧
      t = { s with eng := { Engine.reset with
        stage := 29#5
        out := t.eng.out
        outLen := BitVec.ofNat 7 (90 + s.eng.saltLen.toNat)
        cmdErr := s.eng.cmdErr
        rejCode := s.eng.rejCode
        errCode := s.eng.errCode } } ∧
      t.eng.outBytes = output s.eng.saltBytes s.eng.result

/-- 00_scope.md R3, 70_reset_and_hazards.md R262, R263: from every state of `STAGE = 1` that meets the invariant, whatever the
inputs, the engine stays BUSY for exactly `Steps(L, b0)` sequencer steps and then is `DONE` with
`OUT[0 .. OUTLEN) = Crypt6(pw, salt)`, having used `DigOps(L, b0)` digest-port operations. -/
def Obligations.EngineComputesCrypt6 : Prop :=
  ∀ s : State, s.Inv → s.agenda = [] → s.eng.stage = 1#5 →
    let pw := s.eng.password
    let salt := s.eng.saltBytes
    let b0 := (mainDigest pw salt).toList.getD 0 0#8
    let steps := 30059 + s.eng.pwLen + coverChunks s.eng.pwLen + bitlen s.eng.pwLen + b0.toNat
    s.okFor (runDigOps s.eng.pwLen b0) →
    (∀ k < steps, ∃ t, run k s = .next t ∧ t.eng.isBusy = true) ∧
    ∃ t, run steps s = .next t ∧ t.eng.stage = 29#5 ∧ t.eng.outBytes = crypt6 pw salt ∧
      t.digCount = s.digCount + runDigOps s.eng.pwLen b0 ∧ steps = runSteps s.eng.pwLen b0

/-- 46_host_commands.md R190: the canonical command sequence, from every state in which `CLR` is accepted and with at least as
many sequencer turns in the wait as the run takes. Every command is acknowledged, the poll shows `DONE` and `OUTAV`, and the bytes
collected are `Crypt6(pw, salt)`. A password longer than `PW_MAX` ends in `FAULT` with no output. -/
def Obligations.CanonicalSequence : Prop :=
  ∀ (s : State) (pw salt : List Byte) (turns : Nat), s.Inv → s.eng.stage ∈ [0#5, 29#5, 30#5] →
    let b0 := (mainDigest pw (salt.take 16)).toList.getD 0 0#8
    let n := 90 + min salt.length 16
    let agenda := hashSequence pw salt turns n
    (pw.length ≤ s.cfg.pwMax → runSteps pw.length b0 ≤ turns → s.okFor (runDigOps pw.length b0) →
      ∃ t, run agenda.length { s with agenda := agenda } = .next t ∧
        t.responses = s.responses ++ List.replicate (pw.length + salt.length + 2) 0x8000#16
          ++ [0x8012#16, okWord (BitVec.ofNat 8 n)] ++ (crypt6 pw salt).map okWord) ∧
    (s.cfg.pwMax < pw.length →
      let sequence := startSequence pw salt ++ List.replicate turns .seqTurn ++ [statEvent, outLenEvent]
      ∃ t, run sequence.length { s with agenda := sequence } = .next t ∧ t.eng.stage = 30#5 ∧
        t.responses = s.responses ++ List.replicate (1 + s.cfg.pwMax) 0x8000#16 ++ [0x7000#16]
          ++ List.replicate (pw.length - s.cfg.pwMax - 1 + salt.length + 1) 0x3000#16 ++ [0x800C#16, 0x8000#16])
end

