-- ==== Sys2Proof/Laws/Encoding.lean ====
section
/-! SUPPORT. The fields of the encoded words, and the lengths of the data encodings. -/

namespace Sys2Proof

/-- The bits of a command word (30_encoding.md R80). -/
theorem getLsbD_cmdWord (op : BitVec 4) (imm : Byte) (i : Nat) :
    (cmdWord op imm).getLsbD i =
      if i < 8 then imm.getLsbD i else if i < 12 then false else op.getLsbD (i - 12) := by
  have h : (cmdWord op imm).getLsbD i = BitVec.getLsbD ((op ++ 0#4 : BitVec (4 + 4)) ++ imm : BitVec (4 + 4 + 8)) i := rfl
  rw [h, BitVec.getLsbD_append, BitVec.getLsbD_append]
  by_cases h8 : i < 8
  · simp [h8]
  · by_cases h12 : i < 12
    · simp [h8, h12, show i - 8 < 4 by omega]
    · simp [h8, h12, show ¬(i - 8 < 4) by omega, show i - 8 - 4 = i - 12 by omega]

@[simp] theorem opField_cmdWord (op : BitVec 4) (imm : Byte) : opField (cmdWord op imm) = op := by
  apply BitVec.eq_of_getLsbD_eq
  intro i hi
  simp [opField, getLsbD_cmdWord, hi, show ¬(12 + i < 8) by omega]

@[simp] theorem rsvField_cmdWord (op : BitVec 4) (imm : Byte) : rsvField (cmdWord op imm) = 0#4 := by
  apply BitVec.eq_of_getLsbD_eq
  intro i hi
  simp [rsvField, getLsbD_cmdWord, show 8 + i < 12 by omega]

@[simp] theorem immField_cmdWord (op : BitVec 4) (imm : Byte) : immField (cmdWord op imm) = imm := by
  apply BitVec.eq_of_getLsbD_eq
  intro i hi
  simp [immField, getLsbD_cmdWord, hi]

/-- The opcode and the free bits of a word with `op = 7` (R188). -/
theorem opField_illegalOp7 (low : BitVec 12) : opField (7#4 ++ low) = 7#4 := by
  apply BitVec.eq_of_getLsbD_eq
  intro i hi
  have h : BitVec.getLsbD (7#4 ++ low : Word16) (12 + i) = BitVec.getLsbD (7#4 ++ low : BitVec (4 + 12)) (12 + i) := rfl
  rw [opField, BitVec.getLsbD_extractLsb', h, BitVec.getLsbD_append]
  simp [hi]

theorem low_illegalOp7 (low : BitVec 12) : BitVec.extractLsb' 0 12 (7#4 ++ low : Word16) = low := by
  apply BitVec.eq_of_getLsbD_eq
  intro i hi
  have h : BitVec.getLsbD (7#4 ++ low : Word16) (0 + i) = BitVec.getLsbD (7#4 ++ low : BitVec (4 + 12)) (0 + i) := rfl
  rw [BitVec.getLsbD_extractLsb', h, BitVec.getLsbD_append]
  simp [hi]

/-- The opcode and the free bits of a word with `op` from 8 to 15 (R188). -/
theorem opField_illegalOp8to15 (low : BitVec 15) : 8 ≤ (opField (1#1 ++ low)).toNat := by
  have h : (opField (1#1 ++ low)).getLsbD 3 = true := by
    have h : BitVec.getLsbD (1#1 ++ low : Word16) 15 = BitVec.getLsbD (1#1 ++ low : BitVec (1 + 15)) 15 := rfl
    rw [opField, BitVec.getLsbD_extractLsb', h, BitVec.getLsbD_append]
    simp
  generalize opField (1#1 ++ low) = op at h
  revert op
  decide

theorem low_illegalOp8to15 (low : BitVec 15) : BitVec.extractLsb' 0 15 (1#1 ++ low : Word16) = low := by
  apply BitVec.eq_of_getLsbD_eq
  intro i hi
  have h : BitVec.getLsbD (1#1 ++ low : Word16) (0 + i) = BitVec.getLsbD (1#1 ++ low : BitVec (1 + 15)) (0 + i) := rfl
  rw [BitVec.getLsbD_extractLsb', h, BitVec.getLsbD_append]
  simp [hi]

namespace Machine

@[simp] theorem charRun_length (c : Byte) (n : Nat) : (charRun c n).length = n := by simp [charRun]

@[simp] theorem enc_length (v : BitVec 24) (n : Nat) : (enc v n).length = n := by simp [enc]

end Machine

end Sys2Proof
end

