-- ==== Sys2Proof/Laws/Memory.lean ====
section
/-! SUPPORT. The laws of a byte space (20_memory.md R61): a read after a write, and that every operation keeps the canonical
form. -/

namespace Sys2Proof.Machine

@[simp] theorem Memory.read_nil (a : Nat) : Memory.read [] a = 0#8 := rfl

theorem Memory.wf_nil : Memory.wf [] := ⟨List.Pairwise.nil, fun _ h => nomatch h⟩

theorem Memory.wf_tail {c : Host.Cell} {m : Memory} (h : Memory.wf (c :: m)) : Memory.wf m :=
  ⟨(List.pairwise_cons.1 h.1).2, fun x hx => h.2 x (List.mem_cons_of_mem _ hx)⟩

/-- In canonical form the offsets after the head are larger than the head's. -/
theorem Memory.wf_head_lt {c : Host.Cell} {m : Memory} (h : Memory.wf (c :: m)) : ∀ x ∈ m, c.1 < x.1 :=
  (List.pairwise_cons.1 h.1).1

theorem Memory.wf_cons {c : Host.Cell} {m : Memory} (hlt : ∀ x ∈ m, c.1 < x.1) (hc : c.2 ≠ 0#8) (h : Memory.wf m) :
    Memory.wf (c :: m) :=
  ⟨List.pairwise_cons.2 ⟨hlt, h.1⟩, fun x hx => (List.mem_cons.1 hx).elim (fun hx => hx ▸ hc) (h.2 x)⟩

/-- An offset below every listed one is unlisted. -/
theorem Memory.read_of_lt {m : Memory} {a : Nat} (h : ∀ c ∈ m, a < c.1) : m.read a = 0#8 := by
  induction m with
  | nil => rfl
  | cons c m ih =>
    have hc : a < c.1 := h c (by simp)
    have : c.1 ≠ a := by omega
    simp only [Memory.read, this, if_false]
    exact ih fun x hx => h x (List.mem_cons_of_mem _ hx)

/-- Every entry after a write is the byte written, and that is not zero, or was listed before. -/
theorem Memory.mem_write {m : Memory} {a : Nat} {b : Byte} {x : Host.Cell} (h : x ∈ m.write a b) :
    x = (a, b) ∨ x ∈ m := by
  induction m with
  | nil =>
    simp only [Memory.write] at h
    split at h
    · exact Or.inr h
    · exact Or.inl (List.mem_singleton.1 h)
  | cons c m ih =>
    obtain ⟨k, d⟩ := c
    simp only [Memory.write] at h
    split at h
    · split at h
      · exact Or.inr h
      · exact List.mem_cons.1 h
    · split at h
      · split at h
        · exact Or.inr (List.mem_cons_of_mem _ h)
        · exact (List.mem_cons.1 h).imp_right (List.mem_cons_of_mem _)
      · rcases List.mem_cons.1 h with h | h
        · exact Or.inr (List.mem_cons.2 (Or.inl h))
        · exact (ih h).imp_right (List.mem_cons_of_mem _)

/-- A write keeps the canonical form. -/
theorem Memory.write_wf {m : Memory} (h : m.wf) (a : Nat) (b : Byte) : (m.write a b).wf := by
  induction m with
  | nil =>
    simp only [Memory.write]
    split
    · exact h
    · exact Memory.wf_cons (fun x hx => nomatch hx) (by assumption) h
  | cons c m ih =>
    obtain ⟨k, d⟩ := c
    have ht := Memory.wf_tail h
    have hlt := Memory.wf_head_lt h
    simp only [Memory.write]
    split
    · rename_i hak
      split
      · exact h
      · refine Memory.wf_cons (fun x hx => ?_) (by assumption) h
        rcases List.mem_cons.1 hx with hx | hx
        · exact hx ▸ hak
        · exact lt_trans hak (hlt x hx)
    · split
      · rename_i hak
        subst hak
        split
        · exact ht
        · exact Memory.wf_cons hlt (by assumption) ht
      · rename_i h1 h2
        refine Memory.wf_cons (fun x hx => ?_) (h.2 (k, d) (by simp)) (ih ht)
        rcases Memory.mem_write hx with hx | hx
        · subst hx
          simp only
          omega
        · exact hlt x hx

/-- A read after a write: the byte written at its offset, what was there at every other one. -/
theorem Memory.read_write {m : Memory} (h : m.wf) (a : Nat) (b : Byte) (x : Nat) :
    (m.write a b).read x = if x = a then b else m.read x := by
  induction m with
  | nil =>
    simp only [Memory.write]
    by_cases hx : x = a
    · subst hx
      split <;> simp_all [Memory.read]
    · have : a ≠ x := fun h => hx h.symm
      split <;> simp [Memory.read, this]
  | cons c m ih =>
    obtain ⟨k, d⟩ := c
    have ht := Memory.wf_tail h
    have hlt := Memory.wf_head_lt h
    have hge : ∀ y, y < k → Memory.read m y = 0#8 := fun y hy =>
      Memory.read_of_lt fun z hz => lt_trans hy (hlt z hz)
    simp only [Memory.write]
    by_cases hx : x = a
    · subst hx
      rw [if_pos rfl]
      rcases Nat.lt_trichotomy x k with h1 | h1 | h1
      · rw [if_pos h1]
        split
        · rename_i hb
          simp only [Memory.read, show k ≠ x by omega, if_false, hge x h1, hb]
        · simp only [Memory.read, if_true]
      · subst h1
        rw [if_neg (lt_irrefl x), if_pos rfl]
        split
        · rename_i hb
          rw [Memory.read_of_lt hlt, hb]
        · simp only [Memory.read, if_true]
      · rw [if_neg (by omega), if_neg (by omega)]
        simp only [Memory.read, show k ≠ x by omega, if_false, ih ht, if_true]
    · rw [if_neg hx]
      have hax : a ≠ x := fun h => hx h.symm
      split
      · split
        · rfl
        · simp only [Memory.read, hax, if_false]
      · split
        · rename_i hak
          subst hak
          split <;> simp only [Memory.read, hax, if_false]
        · simp only [Memory.read, ih ht, hx, if_false]

/-- A write of several bytes keeps the canonical form. -/
theorem Memory.writeRange_wf {m : Memory} (h : m.wf) (off : Nat) (v : List Byte) : (m.writeRange off v).wf := by
  induction v generalizing m off with
  | nil => exact h
  | cons b v ih => exact ih (Memory.write_wf h off b) (off + 1)

/-- `MemWrite` (R61): `space[off + j] = v[j]`, every other byte as it was. -/
theorem Memory.read_writeRange {m : Memory} (h : m.wf) (off : Nat) (v : List Byte) (x : Nat) :
    (m.writeRange off v).read x = if off ≤ x ∧ x < off + v.length then v.getD (x - off) 0#8 else m.read x := by
  induction v generalizing m off with
  | nil =>
    rw [if_neg (by simp)]
    rfl
  | cons b v ih =>
    simp only [Memory.writeRange, ih (Memory.write_wf h off b) (off + 1), Memory.read_write h, List.length_cons]
    rcases Nat.lt_trichotomy x off with hx | hx | hx
    · rw [if_neg (by omega), if_neg (by omega), if_neg (by omega)]
    · subst hx
      rw [if_neg (by omega), if_pos rfl, if_pos (by omega), Nat.sub_self]
      rfl
    · by_cases hl : x < off + 1 + v.length
      · rw [if_pos (by omega), if_pos (by omega), show x - off = (x - (off + 1)) + 1 by omega]
        rfl
      · rw [if_neg (by omega), if_neg (by omega), if_neg (by omega)]

/-- The byte of a digest register after a write of part of it. -/
theorem digestWrite_getD (d : Digest) (off : Nat) (v : List Byte) (x : Nat) (hx : x < 64) :
    (digestWrite d off v).toList.getD x 0#8 =
      if off ≤ x ∧ x < off + v.length then v.getD (x - off) 0#8 else d.toList.getD x 0#8 := by
  simp [digestWrite, List.getD_eq_getElem?_getD, hx]

/-- Two contents in canonical form that read the same everywhere are the same data. -/
theorem Memory.ext_read {m m' : Memory} (h : m.wf) (h' : m'.wf) (hr : ∀ a, m.read a = m'.read a) : m = m' := by
  induction m generalizing m' with
  | nil =>
    cases m' with
    | nil => rfl
    | cons c m' =>
      have := hr c.1
      simp only [Memory.read, if_true] at this
      exact absurd this.symm (h'.2 c (by simp))
  | cons c m ih =>
    cases m' with
    | nil =>
      have := hr c.1
      simp only [Memory.read, if_true] at this
      exact absurd this (h.2 c (by simp))
    | cons c' m' =>
      obtain ⟨k, d⟩ := c
      obtain ⟨k', d'⟩ := c'
      have hd : d ≠ 0#8 := h.2 (k, d) (by simp)
      have hd' : d' ≠ 0#8 := h'.2 (k', d') (by simp)
      have hlt := Memory.wf_head_lt h
      have hlt' := Memory.wf_head_lt h'
      have hk : k = k' := by
        rcases Nat.lt_trichotomy k k' with hk | hk | hk
        · have := hr k
          simp only [Memory.read, if_true, show k' ≠ k by omega, if_false] at this
          exact absurd (this.trans (Memory.read_of_lt fun z hz => lt_trans hk (hlt' z hz))) hd
        · exact hk
        · have := hr k'
          simp only [Memory.read, if_true, show k ≠ k' by omega, if_false] at this
          exact absurd (this.symm.trans (Memory.read_of_lt fun z hz => lt_trans hk (hlt z hz))) hd'
      subst hk
      have hdd : d = d' := by simpa [Memory.read] using hr k
      subst hdd
      congr 1
      refine ih (Memory.wf_tail h) (Memory.wf_tail h') fun a => ?_
      by_cases ha : k = a
      · subst ha
        rw [Memory.read_of_lt hlt, Memory.read_of_lt hlt']
      · simpa [Memory.read, ha] using hr a

end Sys2Proof.Machine
end

