-- ==== Sys2Proof/Laws/State.lean ====
section
/-! SUPPORT. One lemma per field per update of the state and of the engine, each true by definition, so that no proof unfolds a
record update. -/

namespace Sys2Proof.Machine

/-! ## Updates of the state -/

@[simp] theorem State.setEng_eng (s : State) (e : Engine) : (s.setEng e).eng = e := rfl
@[simp] theorem State.setEng_cfg (s : State) (e : Engine) : (s.setEng e).cfg = s.cfg := rfl
@[simp] theorem State.setEng_agenda (s : State) (e : Engine) : (s.setEng e).agenda = s.agenda := rfl
@[simp] theorem State.setEng_answers (s : State) (e : Engine) : (s.setEng e).answers = s.answers := rfl
@[simp] theorem State.setEng_digCount (s : State) (e : Engine) : (s.setEng e).digCount = s.digCount := rfl
@[simp] theorem State.setEng_responses (s : State) (e : Engine) : (s.setEng e).responses = s.responses := rfl
@[simp] theorem State.setEng_digReply (s : State) (e : Engine) : (s.setEng e).digReply = s.digReply := rfl

@[simp] theorem State.setStage_eng (s : State) (c : BitVec 5) : (s.setStage c).eng = { s.eng with stage := c } := rfl
@[simp] theorem State.setStage_cfg (s : State) (c : BitVec 5) : (s.setStage c).cfg = s.cfg := rfl
@[simp] theorem State.setStage_agenda (s : State) (c : BitVec 5) : (s.setStage c).agenda = s.agenda := rfl
@[simp] theorem State.setStage_answers (s : State) (c : BitVec 5) : (s.setStage c).answers = s.answers := rfl
@[simp] theorem State.setStage_digCount (s : State) (c : BitVec 5) : (s.setStage c).digCount = s.digCount := rfl
@[simp] theorem State.setStage_responses (s : State) (c : BitVec 5) : (s.setStage c).responses = s.responses := rfl
@[simp] theorem State.setStage_digReply (s : State) (c : BitVec 5) : (s.setStage c).digReply = s.digReply := rfl

@[simp] theorem State.setCtx_eng (s : State) (c : DigestCtx) : (s.setCtx c).eng = { s.eng with ctx := c } := rfl
@[simp] theorem State.setCtx_cfg (s : State) (c : DigestCtx) : (s.setCtx c).cfg = s.cfg := rfl
@[simp] theorem State.setCtx_agenda (s : State) (c : DigestCtx) : (s.setCtx c).agenda = s.agenda := rfl
@[simp] theorem State.setCtx_answers (s : State) (c : DigestCtx) : (s.setCtx c).answers = s.answers := rfl
@[simp] theorem State.setCtx_digCount (s : State) (c : DigestCtx) : (s.setCtx c).digCount = s.digCount := rfl
@[simp] theorem State.setCtx_responses (s : State) (c : DigestCtx) : (s.setCtx c).responses = s.responses := rfl
@[simp] theorem State.setCtx_digReply (s : State) (c : DigestCtx) : (s.setCtx c).digReply = s.digReply := rfl

@[simp] theorem State.respond_eng (s : State) (w : Word16) : (s.respond w).eng = s.eng := rfl
@[simp] theorem State.respond_cfg (s : State) (w : Word16) : (s.respond w).cfg = s.cfg := rfl
@[simp] theorem State.respond_agenda (s : State) (w : Word16) : (s.respond w).agenda = s.agenda := rfl
@[simp] theorem State.respond_answers (s : State) (w : Word16) : (s.respond w).answers = s.answers := rfl
@[simp] theorem State.respond_digCount (s : State) (w : Word16) : (s.respond w).digCount = s.digCount := rfl
@[simp] theorem State.respond_responses (s : State) (w : Word16) : (s.respond w).responses = s.responses ++ [w] := rfl
@[simp] theorem State.respond_digReply (s : State) (w : Word16) : (s.respond w).digReply = s.digReply := rfl

@[simp] theorem State.reject_eng (s : State) (c : RejCause) : (s.reject c).eng = s.eng.noteRejection c := rfl
@[simp] theorem State.reject_cfg (s : State) (c : RejCause) : (s.reject c).cfg = s.cfg := rfl
@[simp] theorem State.reject_agenda (s : State) (c : RejCause) : (s.reject c).agenda = s.agenda := rfl
@[simp] theorem State.reject_answers (s : State) (c : RejCause) : (s.reject c).answers = s.answers := rfl
@[simp] theorem State.reject_digCount (s : State) (c : RejCause) : (s.reject c).digCount = s.digCount := rfl
@[simp] theorem State.reject_responses (s : State) (c : RejCause) : (s.reject c).responses = s.responses ++ [rejWord c] := rfl
@[simp] theorem State.reject_digReply (s : State) (c : RejCause) : (s.reject c).digReply = s.digReply := rfl

@[simp] theorem State.raiseFault_eng (s : State) (c : FaultCause) : (s.raiseFault c).eng = s.eng.faultEntry c := rfl
@[simp] theorem State.raiseFault_cfg (s : State) (c : FaultCause) : (s.raiseFault c).cfg = s.cfg := rfl
@[simp] theorem State.raiseFault_agenda (s : State) (c : FaultCause) : (s.raiseFault c).agenda = s.agenda := rfl
@[simp] theorem State.raiseFault_answers (s : State) (c : FaultCause) : (s.raiseFault c).answers = s.answers := rfl
@[simp] theorem State.raiseFault_digCount (s : State) (c : FaultCause) : (s.raiseFault c).digCount = s.digCount := rfl
@[simp] theorem State.raiseFault_responses (s : State) (c : FaultCause) : (s.raiseFault c).responses = s.responses := rfl
@[simp] theorem State.raiseFault_digReply (s : State) (c : FaultCause) : (s.raiseFault c).digReply = s.digReply := rfl

@[simp] theorem State.clearEngine_eng (s : State) : (s.clearEngine).eng = Engine.reset := rfl
@[simp] theorem State.clearEngine_cfg (s : State) : (s.clearEngine).cfg = s.cfg := rfl
@[simp] theorem State.clearEngine_agenda (s : State) : (s.clearEngine).agenda = s.agenda := rfl
@[simp] theorem State.clearEngine_answers (s : State) : (s.clearEngine).answers = s.answers := rfl
@[simp] theorem State.clearEngine_digCount (s : State) : (s.clearEngine).digCount = s.digCount := rfl
@[simp] theorem State.clearEngine_responses (s : State) : (s.clearEngine).responses = s.responses := rfl
@[simp] theorem State.clearEngine_digReply (s : State) : (s.clearEngine).digReply = s.digReply := rfl

@[simp] theorem State.drawAnswer_eng (s : State) : (s.drawAnswer).eng = s.eng := rfl
@[simp] theorem State.drawAnswer_cfg (s : State) : (s.drawAnswer).cfg = s.cfg := rfl
@[simp] theorem State.drawAnswer_agenda (s : State) : (s.drawAnswer).agenda = s.agenda := rfl
@[simp] theorem State.drawAnswer_answers (s : State) : (s.drawAnswer).answers = s.answers.tail := rfl
@[simp] theorem State.drawAnswer_digCount (s : State) : (s.drawAnswer).digCount = s.digCount + 1 := rfl
@[simp] theorem State.drawAnswer_responses (s : State) : (s.drawAnswer).responses = s.responses := rfl
@[simp] theorem State.drawAnswer_digReply (s : State) : (s.drawAnswer).digReply = s.digReply := rfl

@[simp] theorem State.popEvent_eng (s : State) : (s.popEvent).eng = s.eng := rfl
@[simp] theorem State.popEvent_cfg (s : State) : (s.popEvent).cfg = s.cfg := rfl
@[simp] theorem State.popEvent_agenda (s : State) : (s.popEvent).agenda = s.agenda.tail := rfl
@[simp] theorem State.popEvent_answers (s : State) : (s.popEvent).answers = s.answers := rfl
@[simp] theorem State.popEvent_digCount (s : State) : (s.popEvent).digCount = s.digCount := rfl
@[simp] theorem State.popEvent_responses (s : State) : (s.popEvent).responses = s.responses := rfl
@[simp] theorem State.popEvent_digReply (s : State) : (s.popEvent).digReply = s.digReply := rfl

/-! ## Updates of the engine -/

@[simp] theorem Engine.noteRejection_alt (e : Engine) (c : RejCause) : (e.noteRejection c).alt = e.alt := rfl
@[simp] theorem Engine.noteRejection_result (e : Engine) (c : RejCause) : (e.noteRejection c).result = e.result := rfl
@[simp] theorem Engine.noteRejection_dp (e : Engine) (c : RejCause) : (e.noteRejection c).dp = e.dp := rfl
@[simp] theorem Engine.noteRejection_ds (e : Engine) (c : RejCause) : (e.noteRejection c).ds = e.ds := rfl
@[simp] theorem Engine.noteRejection_stage (e : Engine) (c : RejCause) : (e.noteRejection c).stage = e.stage := rfl
@[simp] theorem Engine.noteRejection_cnt (e : Engine) (c : RejCause) : (e.noteRejection c).cnt = e.cnt := rfl
@[simp] theorem Engine.noteRejection_lsh (e : Engine) (c : RejCause) : (e.noteRejection c).lsh = e.lsh := rfl
@[simp] theorem Engine.noteRejection_r (e : Engine) (c : RejCause) : (e.noteRejection c).r = e.r := rfl
@[simp] theorem Engine.noteRejection_g (e : Engine) (c : RejCause) : (e.noteRejection c).g = e.g := rfl
@[simp] theorem Engine.noteRejection_pw (e : Engine) (c : RejCause) : (e.noteRejection c).pw = e.pw := rfl
@[simp] theorem Engine.noteRejection_pwLen (e : Engine) (c : RejCause) : (e.noteRejection c).pwLen = e.pwLen := rfl
@[simp] theorem Engine.noteRejection_salt (e : Engine) (c : RejCause) : (e.noteRejection c).salt = e.salt := rfl
@[simp] theorem Engine.noteRejection_saltLen (e : Engine) (c : RejCause) : (e.noteRejection c).saltLen = e.saltLen := rfl
@[simp] theorem Engine.noteRejection_pBuf (e : Engine) (c : RejCause) : (e.noteRejection c).pBuf = e.pBuf := rfl
@[simp] theorem Engine.noteRejection_sBuf (e : Engine) (c : RejCause) : (e.noteRejection c).sBuf = e.sBuf := rfl
@[simp] theorem Engine.noteRejection_out (e : Engine) (c : RejCause) : (e.noteRejection c).out = e.out := rfl
@[simp] theorem Engine.noteRejection_outLen (e : Engine) (c : RejCause) : (e.noteRejection c).outLen = e.outLen := rfl
@[simp] theorem Engine.noteRejection_outPtr (e : Engine) (c : RejCause) : (e.noteRejection c).outPtr = e.outPtr := rfl
@[simp] theorem Engine.noteRejection_ctx (e : Engine) (c : RejCause) : (e.noteRejection c).ctx = e.ctx := rfl
@[simp] theorem Engine.noteRejection_cmdErr (e : Engine) (c : RejCause) : (e.noteRejection c).cmdErr = true := rfl
@[simp] theorem Engine.noteRejection_rejCode (e : Engine) (c : RejCause) : (e.noteRejection c).rejCode = c.code := rfl
@[simp] theorem Engine.noteRejection_errCode (e : Engine) (c : RejCause) : (e.noteRejection c).errCode = e.errCode := rfl

-- Every piece of state after reset (10_state.md R39).
@[simp] theorem Engine.reset_alt : Engine.reset.alt = Vector.replicate 64 0#8 := rfl
@[simp] theorem Engine.reset_result : Engine.reset.result = Vector.replicate 64 0#8 := rfl
@[simp] theorem Engine.reset_dp : Engine.reset.dp = Vector.replicate 64 0#8 := rfl
@[simp] theorem Engine.reset_ds : Engine.reset.ds = Vector.replicate 64 0#8 := rfl
@[simp] theorem Engine.reset_stage : Engine.reset.stage = 0#5 := rfl
@[simp] theorem Engine.reset_cnt : Engine.reset.cnt = 0 := rfl
@[simp] theorem Engine.reset_lsh : Engine.reset.lsh = 0 := rfl
@[simp] theorem Engine.reset_r : Engine.reset.r = 0#13 := rfl
@[simp] theorem Engine.reset_g : Engine.reset.g = 0#5 := rfl
@[simp] theorem Engine.reset_pw : Engine.reset.pw = [] := rfl
@[simp] theorem Engine.reset_pwLen : Engine.reset.pwLen = 0 := rfl
@[simp] theorem Engine.reset_salt : Engine.reset.salt = [] := rfl
@[simp] theorem Engine.reset_saltLen : Engine.reset.saltLen = 0#5 := rfl
@[simp] theorem Engine.reset_pBuf : Engine.reset.pBuf = [] := rfl
@[simp] theorem Engine.reset_sBuf : Engine.reset.sBuf = [] := rfl
@[simp] theorem Engine.reset_out : Engine.reset.out = [] := rfl
@[simp] theorem Engine.reset_outLen : Engine.reset.outLen = 0#7 := rfl
@[simp] theorem Engine.reset_outPtr : Engine.reset.outPtr = 0#7 := rfl
@[simp] theorem Engine.reset_ctx : Engine.reset.ctx = { isOpen := false, msg := [] } := rfl
@[simp] theorem Engine.reset_cmdErr : Engine.reset.cmdErr = false := rfl
@[simp] theorem Engine.reset_rejCode : Engine.reset.rejCode = 0#3 := rfl
@[simp] theorem Engine.reset_errCode : Engine.reset.errCode = 0#2 := rfl

@[simp] theorem Engine.faultEntry_alt (e : Engine) (c : FaultCause) : (e.faultEntry c).alt = Vector.replicate 64 0#8 := rfl
@[simp] theorem Engine.faultEntry_result (e : Engine) (c : FaultCause) : (e.faultEntry c).result = Vector.replicate 64 0#8 := rfl
@[simp] theorem Engine.faultEntry_dp (e : Engine) (c : FaultCause) : (e.faultEntry c).dp = Vector.replicate 64 0#8 := rfl
@[simp] theorem Engine.faultEntry_ds (e : Engine) (c : FaultCause) : (e.faultEntry c).ds = Vector.replicate 64 0#8 := rfl
@[simp] theorem Engine.faultEntry_stage (e : Engine) (c : FaultCause) : (e.faultEntry c).stage = Stage.fault := rfl
@[simp] theorem Engine.faultEntry_cnt (e : Engine) (c : FaultCause) : (e.faultEntry c).cnt = 0 := rfl
@[simp] theorem Engine.faultEntry_lsh (e : Engine) (c : FaultCause) : (e.faultEntry c).lsh = 0 := rfl
@[simp] theorem Engine.faultEntry_r (e : Engine) (c : FaultCause) : (e.faultEntry c).r = 0#13 := rfl
@[simp] theorem Engine.faultEntry_g (e : Engine) (c : FaultCause) : (e.faultEntry c).g = 0#5 := rfl
@[simp] theorem Engine.faultEntry_pw (e : Engine) (c : FaultCause) : (e.faultEntry c).pw = [] := rfl
@[simp] theorem Engine.faultEntry_pwLen (e : Engine) (c : FaultCause) : (e.faultEntry c).pwLen = 0 := rfl
@[simp] theorem Engine.faultEntry_salt (e : Engine) (c : FaultCause) : (e.faultEntry c).salt = [] := rfl
@[simp] theorem Engine.faultEntry_saltLen (e : Engine) (c : FaultCause) : (e.faultEntry c).saltLen = 0#5 := rfl
@[simp] theorem Engine.faultEntry_pBuf (e : Engine) (c : FaultCause) : (e.faultEntry c).pBuf = [] := rfl
@[simp] theorem Engine.faultEntry_sBuf (e : Engine) (c : FaultCause) : (e.faultEntry c).sBuf = [] := rfl
@[simp] theorem Engine.faultEntry_out (e : Engine) (c : FaultCause) : (e.faultEntry c).out = [] := rfl
@[simp] theorem Engine.faultEntry_outLen (e : Engine) (c : FaultCause) : (e.faultEntry c).outLen = 0#7 := rfl
@[simp] theorem Engine.faultEntry_outPtr (e : Engine) (c : FaultCause) : (e.faultEntry c).outPtr = 0#7 := rfl
@[simp] theorem Engine.faultEntry_ctx (e : Engine) (c : FaultCause) : (e.faultEntry c).ctx = { isOpen := false, msg := [] } := rfl
@[simp] theorem Engine.faultEntry_cmdErr (e : Engine) (c : FaultCause) : (e.faultEntry c).cmdErr = e.cmdErr := rfl
@[simp] theorem Engine.faultEntry_rejCode (e : Engine) (c : FaultCause) : (e.faultEntry c).rejCode = e.rejCode := rfl
@[simp] theorem Engine.faultEntry_errCode (e : Engine) (c : FaultCause) : (e.faultEntry c).errCode = c.code := rfl

@[simp] theorem Engine.zeroiseWorking_alt (e : Engine) : (e.zeroiseWorking).alt = Vector.replicate 64 0#8 := rfl
@[simp] theorem Engine.zeroiseWorking_result (e : Engine) : (e.zeroiseWorking).result = Vector.replicate 64 0#8 := rfl
@[simp] theorem Engine.zeroiseWorking_dp (e : Engine) : (e.zeroiseWorking).dp = Vector.replicate 64 0#8 := rfl
@[simp] theorem Engine.zeroiseWorking_ds (e : Engine) : (e.zeroiseWorking).ds = Vector.replicate 64 0#8 := rfl
@[simp] theorem Engine.zeroiseWorking_stage (e : Engine) : (e.zeroiseWorking).stage = e.stage := rfl
@[simp] theorem Engine.zeroiseWorking_cnt (e : Engine) : (e.zeroiseWorking).cnt = 0 := rfl
@[simp] theorem Engine.zeroiseWorking_lsh (e : Engine) : (e.zeroiseWorking).lsh = 0 := rfl
@[simp] theorem Engine.zeroiseWorking_r (e : Engine) : (e.zeroiseWorking).r = 0#13 := rfl
@[simp] theorem Engine.zeroiseWorking_g (e : Engine) : (e.zeroiseWorking).g = 0#5 := rfl
@[simp] theorem Engine.zeroiseWorking_pw (e : Engine) : (e.zeroiseWorking).pw = [] := rfl
@[simp] theorem Engine.zeroiseWorking_pwLen (e : Engine) : (e.zeroiseWorking).pwLen = 0 := rfl
@[simp] theorem Engine.zeroiseWorking_salt (e : Engine) : (e.zeroiseWorking).salt = [] := rfl
@[simp] theorem Engine.zeroiseWorking_saltLen (e : Engine) : (e.zeroiseWorking).saltLen = 0#5 := rfl
@[simp] theorem Engine.zeroiseWorking_pBuf (e : Engine) : (e.zeroiseWorking).pBuf = [] := rfl
@[simp] theorem Engine.zeroiseWorking_sBuf (e : Engine) : (e.zeroiseWorking).sBuf = [] := rfl
@[simp] theorem Engine.zeroiseWorking_out (e : Engine) : (e.zeroiseWorking).out = e.out := rfl
@[simp] theorem Engine.zeroiseWorking_outLen (e : Engine) : (e.zeroiseWorking).outLen = e.outLen := rfl
@[simp] theorem Engine.zeroiseWorking_outPtr (e : Engine) : (e.zeroiseWorking).outPtr = e.outPtr := rfl
@[simp] theorem Engine.zeroiseWorking_ctx (e : Engine) : (e.zeroiseWorking).ctx = { isOpen := false, msg := [] } := rfl
@[simp] theorem Engine.zeroiseWorking_cmdErr (e : Engine) : (e.zeroiseWorking).cmdErr = e.cmdErr := rfl
@[simp] theorem Engine.zeroiseWorking_rejCode (e : Engine) : (e.zeroiseWorking).rejCode = e.rejCode := rfl
@[simp] theorem Engine.zeroiseWorking_errCode (e : Engine) : (e.zeroiseWorking).errCode = e.errCode := rfl

-- What a store leaves alone, whatever the space: every register that is no byte space.
@[simp] theorem Engine.store_stage (e : Engine) (sp : Space) (off : Nat) (v : List Byte) :
    (e.store sp off v).stage = e.stage := by cases sp <;> simp only [Engine.store]
@[simp] theorem Engine.store_cnt (e : Engine) (sp : Space) (off : Nat) (v : List Byte) :
    (e.store sp off v).cnt = e.cnt := by cases sp <;> simp only [Engine.store]
@[simp] theorem Engine.store_lsh (e : Engine) (sp : Space) (off : Nat) (v : List Byte) :
    (e.store sp off v).lsh = e.lsh := by cases sp <;> simp only [Engine.store]
@[simp] theorem Engine.store_r (e : Engine) (sp : Space) (off : Nat) (v : List Byte) :
    (e.store sp off v).r = e.r := by cases sp <;> simp only [Engine.store]
@[simp] theorem Engine.store_g (e : Engine) (sp : Space) (off : Nat) (v : List Byte) :
    (e.store sp off v).g = e.g := by cases sp <;> simp only [Engine.store]
@[simp] theorem Engine.store_pwLen (e : Engine) (sp : Space) (off : Nat) (v : List Byte) :
    (e.store sp off v).pwLen = e.pwLen := by cases sp <;> simp only [Engine.store]
@[simp] theorem Engine.store_saltLen (e : Engine) (sp : Space) (off : Nat) (v : List Byte) :
    (e.store sp off v).saltLen = e.saltLen := by cases sp <;> simp only [Engine.store]
@[simp] theorem Engine.store_outLen (e : Engine) (sp : Space) (off : Nat) (v : List Byte) :
    (e.store sp off v).outLen = e.outLen := by cases sp <;> simp only [Engine.store]
@[simp] theorem Engine.store_outPtr (e : Engine) (sp : Space) (off : Nat) (v : List Byte) :
    (e.store sp off v).outPtr = e.outPtr := by cases sp <;> simp only [Engine.store]
@[simp] theorem Engine.store_ctx (e : Engine) (sp : Space) (off : Nat) (v : List Byte) :
    (e.store sp off v).ctx = e.ctx := by cases sp <;> simp only [Engine.store]
@[simp] theorem Engine.store_cmdErr (e : Engine) (sp : Space) (off : Nat) (v : List Byte) :
    (e.store sp off v).cmdErr = e.cmdErr := by cases sp <;> simp only [Engine.store]
@[simp] theorem Engine.store_rejCode (e : Engine) (sp : Space) (off : Nat) (v : List Byte) :
    (e.store sp off v).rejCode = e.rejCode := by cases sp <;> simp only [Engine.store]
@[simp] theorem Engine.store_errCode (e : Engine) (sp : Space) (off : Nat) (v : List Byte) :
    (e.store sp off v).errCode = e.errCode := by cases sp <;> simp only [Engine.store]

end Sys2Proof.Machine
end

