-- ==== Sys2Proof/Laws/Ops.lean ====
section
/-! SUPPORT. For each shared operation, once, everything it can do: cited by the proofs instead of unfolding it. -/

namespace Sys2Proof.Machine

/-! ## Stores and reads of a space -/

/-- Every buffer in canonical form stays so under a store. -/
theorem Engine.store_memForm {e : Engine} (hpw : e.pw.wf) (hsalt : e.salt.wf) (hp : e.pBuf.wf) (hs : e.sBuf.wf)
    (hout : e.out.wf) (sp : Space) (off : Nat) (v : List Byte) :
    (e.store sp off v).pw.wf ∧ (e.store sp off v).salt.wf ∧ (e.store sp off v).pBuf.wf ∧ (e.store sp off v).sBuf.wf ∧
      (e.store sp off v).out.wf := by
  cases sp <;> simp only [Engine.store]
  case pw => exact ⟨Memory.writeRange_wf hpw off v, hsalt, hp, hs, hout⟩
  case salt => exact ⟨hpw, Memory.writeRange_wf hsalt off v, hp, hs, hout⟩
  case p => exact ⟨hpw, hsalt, Memory.writeRange_wf hp off v, hs, hout⟩
  case s => exact ⟨hpw, hsalt, hp, Memory.writeRange_wf hs off v, hout⟩
  case out => exact ⟨hpw, hsalt, hp, hs, Memory.writeRange_wf hout off v⟩
  all_goals exact ⟨hpw, hsalt, hp, hs, hout⟩

/-- A store in one space leaves every byte of every other space alone. -/
theorem Engine.byteAt_store_other (e : Engine) {sp sp' : Space} (h : sp' ≠ sp) (off : Nat) (v : List Byte) (x : Nat) :
    (e.store sp off v).byteAt sp' x = e.byteAt sp' x := by
  cases sp <;> cases sp' <;> simp only [Engine.store, Engine.byteAt] <;> exact absurd rfl h

/-- A store in a buffer: the bytes stored, every other byte as it was (20_memory.md R61). -/
theorem Engine.byteAt_store_out {e : Engine} (h : e.out.wf) (off : Nat) (v : List Byte) (x : Nat) :
    (e.store .out off v).byteAt .out x =
      if off ≤ x ∧ x < off + v.length then v.getD (x - off) 0#8 else e.byteAt .out x :=
  Memory.read_writeRange h off v x

theorem Engine.byteAt_store_pw {e : Engine} (h : e.pw.wf) (off : Nat) (v : List Byte) (x : Nat) :
    (e.store .pw off v).byteAt .pw x =
      if off ≤ x ∧ x < off + v.length then v.getD (x - off) 0#8 else e.byteAt .pw x :=
  Memory.read_writeRange h off v x

theorem Engine.byteAt_store_salt {e : Engine} (h : e.salt.wf) (off : Nat) (v : List Byte) (x : Nat) :
    (e.store .salt off v).byteAt .salt x =
      if off ≤ x ∧ x < off + v.length then v.getD (x - off) 0#8 else e.byteAt .salt x :=
  Memory.read_writeRange h off v x

theorem Engine.byteAt_store_p {e : Engine} (h : e.pBuf.wf) (off : Nat) (v : List Byte) (x : Nat) :
    (e.store .p off v).byteAt .p x =
      if off ≤ x ∧ x < off + v.length then v.getD (x - off) 0#8 else e.byteAt .p x :=
  Memory.read_writeRange h off v x

theorem Engine.byteAt_store_s {e : Engine} (h : e.sBuf.wf) (off : Nat) (v : List Byte) (x : Nat) :
    (e.store .s off v).byteAt .s x =
      if off ≤ x ∧ x < off + v.length then v.getD (x - off) 0#8 else e.byteAt .s x :=
  Memory.read_writeRange h off v x

@[simp] theorem Engine.bytes_length (e : Engine) (sp : Space) (off n : Nat) : (e.bytes sp off n).length = n := by
  simp [Engine.bytes]

@[simp] theorem Engine.bytes_zero (e : Engine) (sp : Space) (off : Nat) : e.bytes sp off 0 = [] := rfl

/-- The first bytes of a digest as a list of indexed bytes. -/
theorem digest_range_map (d : Digest) {n : Nat} (h : n ≤ 64) :
    ((List.range n).map fun j => d.toList.getD (0 + j) 0#8) = d.toList.take n := by
  apply List.ext_getElem
  · simp [h]
  · intro i h1 h2
    have hi : i < 64 := by
      simp at h1
      omega
    simp [List.getD_eq_getElem?_getD, hi]

theorem Engine.bytes_alt (e : Engine) {n : Nat} (h : n ≤ 64) : e.bytes .alt 0 n = e.alt.toList.take n :=
  digest_range_map e.alt h

theorem Engine.bytes_ds (e : Engine) {n : Nat} (h : n ≤ 64) : e.bytes .ds 0 n = e.ds.toList.take n :=
  digest_range_map e.ds h

theorem Engine.bytes_result (e : Engine) : e.bytes .result 0 64 = e.result.toList := by
  have h := digest_range_map e.result (le_refl 64)
  rw [List.take_of_length_le (by simp)] at h
  exact h

/-! ## MemRead and MemWrite -/

theorem memRead_of_le {sp : Space} {off n : Nat} {s : State} (k : List Byte → Out)
    (h : off + n ≤ spaceSize s.cfg sp) : memRead sp off n s k = k (s.eng.bytes sp off n) := if_pos h

theorem memWrite_of_le {sp : Space} {off : Nat} {v : List Byte} {s : State} (k : State → Out)
    (h : off + v.length ≤ spaceSize s.cfg sp) : memWrite sp off v s k = k (s.setEng (s.eng.store sp off v)) := if_pos h

/-- If a read answers a next state, the range lies in the space. -/
theorem memRead_next {sp : Space} {off n : Nat} {s t : State} {k : List Byte → Out} (h : memRead sp off n s k = .next t) :
    off + n ≤ spaceSize s.cfg sp ∧ k (s.eng.bytes sp off n) = .next t := by
  unfold memRead at h
  split at h
  · exact ⟨by assumption, h⟩
  · exact absurd h (by simp)

/-- If a write answers a next state, the range lies in the space. -/
theorem memWrite_next {sp : Space} {off : Nat} {v : List Byte} {s t : State} {k : State → Out}
    (h : memWrite sp off v s k = .next t) :
    off + v.length ≤ spaceSize s.cfg sp ∧ k (s.setEng (s.eng.store sp off v)) = .next t := by
  unfold memWrite at h
  split at h
  · exact ⟨by assumption, h⟩
  · exact absurd h (by simp)

/-! ## The digest port -/

/-- Everything a digest-port operation can do after its `require` (40_digest_port.md R114). -/
theorem digAnswered_next {s t : State} {k : State → Out} (h : digAnswered s k = .next t) :
    s.failsAt 0 = true ∧ t = s.drawAnswer.raiseFault .digestFail ∨ s.failsAt 0 = false ∧ k s.drawAnswer = .next t := by
  unfold digAnswered at h
  split at h
  · exact Or.inl ⟨by assumption, by simpa using h.symm⟩
  · rename_i hf
    exact Or.inr ⟨by simpa using hf, h⟩

theorem digAnswered_ok {s : State} (k : State → Out) (h : s.failsAt 0 = false) : digAnswered s k = k s.drawAnswer := by
  simp [digAnswered, h]

theorem digAnswered_fail {s : State} (k : State → Out) (h : s.failsAt 0 = true) :
    digAnswered s k = .next (s.drawAnswer.raiseFault .digestFail) := by
  simp [digAnswered, h]

/-- `DIG.START` answers a fault entry or goes on with an open, empty context (R111). -/
theorem digStart_next {s t : State} {k : State → Out} (h : digStart s k = .next t) :
    s.failsAt 0 = true ∧ t = s.drawAnswer.raiseFault .digestFail ∨
      s.failsAt 0 = false ∧ k (s.drawAnswer.setCtx { isOpen := true, msg := [] }) = .next t :=
  digAnswered_next h

theorem digStart_ok {s : State} (k : State → Out) (h : s.failsAt 0 = false) :
    digStart s k = k (s.drawAnswer.setCtx { isOpen := true, msg := [] }) := digAnswered_ok _ h

/-- `DIG.FEED` needs an open context; it answers a fault entry or goes on with the message extended (R112). -/
theorem digFeed_next {x : List Byte} {s t : State} {k : State → Out} (h : digFeed x s k = .next t) :
    s.eng.ctx.isOpen = true ∧
      (s.failsAt 0 = true ∧ t = s.drawAnswer.raiseFault .digestFail ∨
        s.failsAt 0 = false ∧ k (s.drawAnswer.setCtx { isOpen := true, msg := s.eng.ctx.msg ++ x }) = .next t) := by
  unfold digFeed at h
  split at h
  · exact ⟨by assumption, digAnswered_next h⟩
  · exact absurd h (by simp)

theorem digFeed_ok {x : List Byte} {s : State} (k : State → Out) (ho : s.eng.ctx.isOpen = true)
    (h : s.failsAt 0 = false) :
    digFeed x s k = k (s.drawAnswer.setCtx { isOpen := true, msg := s.eng.ctx.msg ++ x }) := by
  rw [digFeed, if_pos ho]
  exact digAnswered_ok _ h

/-- `DIG.FINAL` needs an open context; it answers a fault entry or hands on the digest with the context closed (R113). -/
theorem digFinal_next {s t : State} {k : Digest → State → Out} (h : digFinal s k = .next t) :
    s.eng.ctx.isOpen = true ∧
      (s.failsAt 0 = true ∧ t = s.drawAnswer.raiseFault .digestFail ∨
        s.failsAt 0 = false ∧
          k (sha512 s.eng.ctx.msg) (s.drawAnswer.setCtx { isOpen := false, msg := [] }) = .next t) := by
  unfold digFinal at h
  split at h
  · exact ⟨by assumption, digAnswered_next h⟩
  · exact absurd h (by simp)

theorem digFinal_ok {s : State} (k : Digest → State → Out) (ho : s.eng.ctx.isOpen = true) (h : s.failsAt 0 = false) :
    digFinal s k = k (sha512 s.eng.ctx.msg) (s.drawAnswer.setCtx { isOpen := false, msg := [] }) := by
  rw [digFinal, if_pos ho]
  exact digAnswered_ok _ h

/-- After a draw the coming answers are one operation nearer (R114). -/
theorem State.failsAt_drawAnswer (s : State) (k : Nat) : s.drawAnswer.failsAt k = s.failsAt (k + 1) := by
  simp [State.failsAt, Nat.add_assoc, Nat.add_comm 1 k]

/-! ## Words of the response port -/

@[simp] theorem rejWord_illegalOpcode : rejWord .illegalOpcode = 0x1000#16 := by decide
@[simp] theorem rejWord_reservedField : rejWord .reservedField = 0x2000#16 := by decide
@[simp] theorem rejWord_wrongState : rejWord .wrongState = 0x3000#16 := by decide
@[simp] theorem rejWord_outEmpty : rejWord .outEmpty = 0x4000#16 := by decide
@[simp] theorem rejWord_badSelector : rejWord .badSelector = 0x5000#16 := by decide
@[simp] theorem rejWord_faulted : rejWord .faulted = 0x7000#16 := by decide

end Sys2Proof.Machine
end

