-- ==== Sys2Proof/Laws/Forms.lean ====
section
/-! SUPPORT. The operations' results in the written-out forms of Safety.lean, and the stores and data encodings byte by byte. -/

namespace Sys2Proof

/-- From 64 on the bounds of 40_digest_port.md R112 and 30_encoding.md R83 are the same (log entry 15). -/
theorem Params.feedMax_eq {p : Params} (h : 64 ≤ p.pwMax) : p.feedMax = p.pwMax := Nat.max_eq_left h

namespace Machine

/-! ## Feeds -/

/-- A range that a sequencer operation reads from any space but `OUT` makes a well-formed feed (R112). -/
theorem memRead_feed_wf {sp : Space} {off n : Nat} {s t : State} {k : List Byte → Out} (hsp : sp ≠ .out)
    (h : memRead sp off n s k = .next t) : Instr.wf s.cfg (.digFeed (s.eng.bytes sp off n)) = true := by
  have hn := (memRead_next h).1
  simp only [Instr.wf, Engine.bytes_length, decide_eq_true_eq, Params.feedMax]
  cases sp <;> simp only [spaceSize, Config.saltMax] at hn <;> first | exact absurd rfl hsp | omega

/-! ## Next states -/

/-- A rejection (60_exceptions.md R223), written out. -/
theorem State.reject_eq_rejected (s : State) (c : RejCause) : s.reject c = s.rejected c.code := by
  cases c <;>
    simp [State.reject, State.rejected, State.replied, State.setEng, State.respond, Engine.noteRejection, RejCause.code]

/-- An acknowledgement (30_encoding.md R81), written out. -/
theorem ackWord_eq_okWord (d : Byte) : ackWord d = okWord d := by
  revert d
  unfold ackWord okWord
  decide +kernel

/-- What a digest-port operation that failed leaves (40_digest_port.md R114), written out. -/
theorem State.raiseFault_drawAnswer (s : State) :
    s.drawAnswer.raiseFault .digestFail = s.answered (s.eng.faulted 2#2) := rfl

/-! ## Bytes outside a store, in canonical form or not -/

theorem Memory.read_write_other (m : Memory) (a : Nat) (b : Byte) {x : Nat} (hx : x ≠ a) :
    (m.write a b).read x = m.read x := by
  have ha : a ≠ x := fun h => hx h.symm
  induction m with
  | nil =>
    simp only [Memory.write]
    split
    · rfl
    · simp [Memory.read, ha]
  | cons c m ih =>
    obtain ⟨k, d⟩ := c
    simp only [Memory.write]
    split
    · split
      · rfl
      · simp only [Memory.read, ha, if_false]
    · split
      · rename_i h
        subst h
        split <;> simp only [Memory.read, ha, if_false]
      · simp only [Memory.read, ih]

theorem Memory.read_writeRange_other (m : Memory) (off : Nat) (v : List Byte) {x : Nat}
    (hx : ¬(off ≤ x ∧ x < off + v.length)) : (m.writeRange off v).read x = m.read x := by
  induction v generalizing m off with
  | nil => rfl
  | cons b v ih =>
    rw [List.length_cons] at hx
    rw [Memory.writeRange, ih _ _ (by omega), Memory.read_write_other _ _ _ (by omega)]

/-! ## The sequences and the data encodings, byte by byte -/

@[simp] theorem stretch_length (d : Digest) (n : Nat) : (stretch d n).length = n := by simp [stretch]

/-- Byte `k` of a stretched digest (43_sequence_construction.md R144). -/
theorem stretch_getD (d : Digest) {n k : Nat} (h : k < n) : (stretch d n).getD k 0#8 = d.toList.getD (k % 64) 0#8 := by
  simp [stretch, List.getD_eq_getElem?_getD, h]

/-- The alphabet as a table and by its ranges (30_encoding.md R93). -/
theorem alpha_eq_charOf (i : BitVec 6) : alpha i = charOf i.toNat := by
  revert i
  decide +kernel

/-- Character `j` of `Enc(v, n)` (30_encoding.md R94). -/
theorem enc_getD (v : BitVec 24) {n j : Nat} (h : j < n) :
    (enc v n).getD j 0#8 = charOf (v.toNat / 2 ^ (6 * j) % 2 ^ 6) := by
  simp only [enc, List.getD_eq_getElem?_getD]
  simp [h, alpha_eq_charOf, Nat.shiftRight_eq_div_pow]

/-- The 24 bits of a triple as a sum (30_encoding.md R97). -/
theorem tripleValue_toNat (d : Digest) (t : Fin 64 × Fin 64 × Fin 64) :
    (tripleValue d t).toNat = tripleVal d (t.1.val, t.2.1.val, t.2.2.val) := by
  have hb : ∀ k : Fin 64, byteVal d k.val = (d[k]).toNat := by
    intro k
    simp [byteVal, List.getD_eq_getElem?_getD]
  have sum : ∀ a b c : Byte,
      (a.setWidth 24 ||| (b.setWidth 24 <<< 8) ||| (c.setWidth 24 <<< 16)).toNat =
        a.toNat + 2 ^ 8 * b.toNat + 2 ^ 16 * c.toNat := by
    intro a b c
    have ha := a.isLt
    have hb := b.isLt
    have hc := c.isLt
    simp only [BitVec.toNat_or, BitVec.toNat_setWidth, BitVec.toNat_shiftLeft]
    rw [Nat.mod_eq_of_lt (by omega : a.toNat < 2 ^ 24), Nat.mod_eq_of_lt (by omega : b.toNat < 2 ^ 24),
      Nat.mod_eq_of_lt (by omega : c.toNat < 2 ^ 24), Nat.shiftLeft_eq, Nat.shiftLeft_eq,
      Nat.mod_eq_of_lt (by omega), Nat.mod_eq_of_lt (by omega), Nat.or_comm (a.toNat), ← Nat.shiftLeft_eq,
      ← Nat.shiftLeft_add_eq_or_of_lt (by omega), Nat.or_comm, ← Nat.shiftLeft_eq,
      ← Nat.shiftLeft_add_eq_or_of_lt (by rw [Nat.shiftLeft_eq]; omega)]
    simp only [Nat.shiftLeft_eq]
    omega
  simp only [tripleVal, hb]
  exact sum _ _ _

end Machine

end Sys2Proof
end

