-- ==== Sys2Proof/Laws/PerInstr.lean ====
section
/-! SUPPORT. The family `RoundTrip`: decoding the encoded form of an instruction gives it back, one lemma per constructor
(30_encoding.md R82 to R84), and what the decoder makes of a feed. -/

namespace Sys2Proof

/-- Code 2 is a feed of its request data exactly where there are at most `PW_MAX` bytes (R83). -/
theorem decodeDigop2_feed (p : Params) (data : List Byte) :
    decodeDigop2 p 2#2 data = if data.length ≤ p.pwMax then .ok (.digFeed data) else .error .requestTooLong := rfl

/-- Every transaction that decodes is a well-formed instruction: what R83 lists, R112 allows. -/
theorem decodeDigop2_wf {p : Params} {c : BitVec 2} {data : List Byte} {i : Instr} (h : decodeDigop2 p c data = .ok i) :
    i.wf p = true := by
  unfold decodeDigop2 at h
  split at h
  · split at h <;> cases h
    rfl
  · split at h <;> cases h
    rename_i hl
    exact decide_eq_true (le_trans hl (Nat.le_max_left p.pwMax 64))
  · split at h <;> cases h
    rfl
  · cases h

/-- Where `PW_MAX` is at least 64 a well-formed feed has at most `PW_MAX` bytes (log entry 15). -/
theorem Instr.wf_feed_length {p : Params} (hp : 64 ≤ p.pwMax) {i : Instr} (hi : i.wf p = true) :
    ∀ x, i = .digFeed x → x.length ≤ p.pwMax := by
  rintro x rfl
  rw [← Nat.max_eq_left hp]
  exact of_decide_eq_true hi

end Sys2Proof

namespace Sys2Proof.Laws.RoundTrip

/-- The encoded form of an instruction decodes to it, in the format of its row; a feed has at most the `PW_MAX` bytes of R83. -/
def Statement (i : Instr) : Prop :=
  ∀ p : Params, (∀ x, i = .digFeed x → x.length ≤ p.pwMax) → decode p (encode i) = .ok i

theorem nop : Statement .nop := fun _ _ => rfl

theorem clr : Statement .clr := fun _ _ => rfl

theorem pushp (imm8 : Byte) : Statement (.pushp imm8) := fun _ _ => by
  simp [encode, decode, decodeCmd16, immCommand]

theorem pushs (imm8 : Byte) : Statement (.pushs imm8) := fun _ _ => by
  simp [encode, decode, decodeCmd16, immCommand]

theorem start : Statement .start := fun _ _ => rfl

theorem popc : Statement .popc := fun _ _ => rfl

theorem rdreg (sel : Byte) : Statement (.rdreg sel) := fun _ _ => by
  simp [encode, decode, decodeCmd16, immCommand]

theorem illegalOp7 (low : BitVec 12) : Statement (.illegalOp7 low) := fun _ _ => by
  simp only [encode, decode, decodeCmd16, opField_illegalOp7, low_illegalOp7]
  rfl

theorem illegalOp8to15 (low : BitVec 15) : Statement (.illegalOp8to15 low) := fun _ _ => by
  have h := opField_illegalOp8to15 low
  simp only [encode, decode, decodeCmd16]
  split <;> first | omega | rw [low_illegalOp8to15]

theorem aInit : Statement .aInit := fun _ _ => rfl

theorem aPw1 : Statement .aPw1 := fun _ _ => rfl

theorem aSalt : Statement .aSalt := fun _ _ => rfl

theorem aPw2 : Statement .aPw2 := fun _ _ => rfl

theorem aFin : Statement .aFin := fun _ _ => rfl

theorem mInit : Statement .mInit := fun _ _ => rfl

theorem mPw : Statement .mPw := fun _ _ => rfl

theorem mSalt : Statement .mSalt := fun _ _ => rfl

theorem mCover : Statement .mCover := fun _ _ => rfl

theorem mBits : Statement .mBits := fun _ _ => rfl

theorem mFin : Statement .mFin := fun _ _ => rfl

theorem pInit : Statement .pInit := fun _ _ => rfl

theorem pRep : Statement .pRep := fun _ _ => rfl

theorem pFin : Statement .pFin := fun _ _ => rfl

theorem pFill : Statement .pFill := fun _ _ => rfl

theorem sInit : Statement .sInit := fun _ _ => rfl

theorem sRep : Statement .sRep := fun _ _ => rfl

theorem sFin : Statement .sFin := fun _ _ => rfl

theorem sFill : Statement .sFill := fun _ _ => rfl

theorem rInit : Statement .rInit := fun _ _ => rfl

theorem rF1 : Statement .rF1 := fun _ _ => rfl

theorem rF2 : Statement .rF2 := fun _ _ => rfl

theorem rF3 : Statement .rF3 := fun _ _ => rfl

theorem rF4 : Statement .rF4 := fun _ _ => rfl

theorem rFin : Statement .rFin := fun _ _ => rfl

theorem ePrefix : Statement .ePrefix := fun _ _ => rfl

theorem eGroup : Statement .eGroup := fun _ _ => rfl

theorem eLast : Statement .eLast := fun _ _ => rfl

theorem digStart : Statement .digStart := fun _ _ => rfl

theorem digFeed (bytes : List Byte) : Statement (.digFeed bytes) := fun _ h => if_pos (h bytes rfl)

theorem digFinal : Statement .digFinal := fun _ _ => rfl

end Sys2Proof.Laws.RoundTrip
end

