-- ==== Sys2Proof/Tests/Slice0.lean ====
section
/-! SUPPORT. The model's own tests, each with its source in the spec, and for every obligation with hypotheses a state that meets
them. -/

-- One thread at a time: the kernel evaluations below need memory of their own.
set_option Elab.async false

namespace Sys2Proof.Tests

open Machine

/-! ## Helpers -/

/-- A state at a `STAGE` code, everything else as after reset. -/
def stand (c : BitVec 5) : State := { State.reset with eng := { Engine.reset with stage := c } }

/-- The same with an open context that holds `m`. -/
def standOpen (c : BitVec 5) (m : List Byte) : State :=
  { State.reset with eng := { Engine.reset with stage := c, ctx := { isOpen := true, msg := m } } }

/-- The same with the parameters of a digest unit that can fail, its next answer given. -/
def withAnswer (a : Bool) (s : State) : State :=
  { s with cfg := { s.cfg with digestCanFail := true }, answers := [a] }

/-- Whether an outcome is a next state with a property. -/
def ends (o : Out) (p : State → Bool) : Bool :=
  match o with
  | .next t => p t
  | _ => false

/-- The engine of vector V5 (95_test_vectors.md): password "a", salt "ab". -/
def inputs : Engine :=
  { Engine.reset with pw := [(0, 0x61#8)], pwLen := 1, salt := [(0, 0x61#8), (1, 0x62#8)], saltLen := 2#5 }

/-- That engine at a `STAGE` code, with an open context that holds `m`. -/
def loaded (c : BitVec 5) (m : List Byte) : State :=
  { State.reset with eng := { inputs with stage := c, ctx := { isOpen := true, msg := m } } }

/-- That engine just started: `STAGE = 1`, the context closed. -/
def started : State := { State.reset with eng := { inputs with stage := 1#5 } }

/-- A state with another engine. -/
def changed (s : State) (f : Engine → Engine) : State := { s with eng := f s.eng }

/-- The bytes `0, 1, ..., 63` as a digest. -/
def count64 : Digest := Vector.ofFn fun k => BitVec.ofNat 8 k.val

/-- The reset state of an engine with no room for a password. -/
def noRoom : State := State.resetWith { pwMax := 0, digestCanFail := false }

/-- A byte sequence read as one number, first byte most significant. -/
def number (bs : List Byte) : Nat := bs.foldl (fun v b => v * 256 + b.toNat) 0

/-- The last response of a state. -/
def lastResponse (s : State) : Word16 := s.responses.getLastD 0#16

/-! ## Well-formedness (40_digest_port.md R112) -/

theorem test_wf_refuses_long_feed :
    Instr.wf { pwMax := 3, digestCanFail := false } (.digFeed (List.replicate 65 0#8)) = false := by decide

theorem test_wf_accepts_longest_feed :
    Instr.wf { pwMax := 3, digestCanFail := false } (.digFeed (List.replicate 64 0#8)) = true := by decide

/-- The operation follows R112 (log entry 15): with `PW_MAX = 1` the sequencer still feeds 64 bytes (R135, R157), a well-formed
feed. -/
theorem test_wf_feed_above_pwMax :
    (let s := changed { standOpen 21#5 [] with cfg := { pwMax := 1, digestCanFail := false } } fun e => { e with result := count64 };
      ends (seqStep s) (fun t => t.eng.ctx.msg = count64.toList ∧ s.cfg.pwMax < t.eng.ctx.msg.length ∧
        Instr.wf s.cfg (.digFeed t.eng.ctx.msg)) = true) := by decide +kernel

theorem test_params_wf : Params.default.WF ∧ ¬Params.WF { pwMax := 2 ^ 32, digestCanFail := false } := by decide

/-! ## Decoding, the words written out from 30_encoding.md R84, R26, R83 and 95_test_vectors.md section 2.3 -/

theorem test_decode_commands :
    decodeCmd16 0x0000#16 = .ok .nop ∧ decodeCmd16 0x1000#16 = .ok .clr ∧
    decodeCmd16 0x2061#16 = .ok (.pushp 0x61#8) ∧ decodeCmd16 0x20FF#16 = .ok (.pushp 0xFF#8) ∧
    decodeCmd16 0x3024#16 = .ok (.pushs 0x24#8) ∧ decodeCmd16 0x4000#16 = .ok .start ∧
    decodeCmd16 0x5000#16 = .ok .popc ∧ decodeCmd16 0x6013#16 = .ok (.rdreg 0x13#8) ∧
    decodeCmd16 0x7000#16 = .ok (.illegalOp7 0x000#12) ∧
    decodeCmd16 0xF123#16 = .ok (.illegalOp8to15 0x7123#15) ∧
    decodeCmd16 0x8000#16 = .ok (.illegalOp8to15 0#15) := by decide

theorem test_decode_reserved_fields :
    [0x0001#16, 0x0100#16, 0x2161#16, 0x4001#16, 0x5001#16, 0x1800#16, 0x6F00#16].map (fun w => decodeCmd16 w) =
      List.replicate 7 (.error .reservedField) := by decide

theorem test_decode_alternate_and_main_sum :
    decodeStage5 0b00001#5 = .ok .aInit ∧ decodeStage5 0b00010#5 = .ok .aPw1 ∧
    decodeStage5 0b00011#5 = .ok .aSalt ∧ decodeStage5 0b00100#5 = .ok .aPw2 ∧
    decodeStage5 0b00101#5 = .ok .aFin ∧ decodeStage5 0b00110#5 = .ok .mInit ∧
    decodeStage5 0b00111#5 = .ok .mPw ∧ decodeStage5 0b01000#5 = .ok .mSalt ∧
    decodeStage5 0b01001#5 = .ok .mCover ∧ decodeStage5 0b01010#5 = .ok .mBits ∧
    decodeStage5 0b01011#5 = .ok .mFin := by decide

theorem test_decode_sequences :
    decodeStage5 0b01100#5 = .ok .pInit ∧ decodeStage5 0b01101#5 = .ok .pRep ∧
    decodeStage5 0b01110#5 = .ok .pFin ∧ decodeStage5 0b01111#5 = .ok .pFill ∧
    decodeStage5 0b10000#5 = .ok .sInit ∧ decodeStage5 0b10001#5 = .ok .sRep ∧
    decodeStage5 0b10010#5 = .ok .sFin ∧ decodeStage5 0b10011#5 = .ok .sFill := by decide

theorem test_decode_rounds_and_encoding :
    decodeStage5 0b10100#5 = .ok .rInit ∧ decodeStage5 0b10101#5 = .ok .rF1 ∧
    decodeStage5 0b10110#5 = .ok .rF2 ∧ decodeStage5 0b10111#5 = .ok .rF3 ∧
    decodeStage5 0b11000#5 = .ok .rF4 ∧ decodeStage5 0b11001#5 = .ok .rFin ∧
    decodeStage5 0b11010#5 = .ok .ePrefix ∧ decodeStage5 0b11011#5 = .ok .eGroup ∧
    decodeStage5 0b11100#5 = .ok .eLast := by decide

theorem test_decode_no_operation :
    (∀ c ∈ [0#5, 29#5, 30#5], decodeStage5 c = .error .noSequencerOperation) ∧
    decodeStage5 31#5 = .error .reservedStage ∧ decodeDigop2 Params.default 0#2 [] = .error .noPortOperation ∧
    decodeDigop2 Params.default 1#2 [0#8] = .error .unexpectedPortData := by decide

theorem test_decode_digest_port :
    let p := Params.default
    decode p (.digop2 1#2 []) = .ok .digStart ∧ decode p (.digop2 2#2 [0x61#8, 0x62#8]) = .ok (.digFeed [0x61#8, 0x62#8]) ∧
    decode p (.digop2 3#2 []) = .ok .digFinal := by decide

/-- The rows of R83's table at their bounds, for `PW_MAX = 1`: one byte of a feed decodes, two do not, nor the 64 of `RESULT`. -/
theorem test_decode_feed_bound :
    let p : Params := { pwMax := 1, digestCanFail := false }
    decodeDigop2 p 2#2 [] = .ok (.digFeed []) ∧ decodeDigop2 p 2#2 [0x61#8] = .ok (.digFeed [0x61#8]) ∧
    decodeDigop2 p 2#2 [0x61#8, 0x62#8] = .error .requestTooLong ∧
    decodeDigop2 p 2#2 count64.toList = .error .requestTooLong ∧
    decodeDigop2 p 3#2 [0#8] = .error .unexpectedPortData := by decide +kernel

theorem test_table_words :
    decodeTableWord 16 0x2061 = some (.pushp 0x61#8) ∧ decodeTableWord 8 0b11011 = some .eGroup ∧
    decodeTableWord 5 0b00101 = some .aFin ∧ decodeTableWord 2 0b11 = some .digFinal ∧ decodeTableWord 16 0x0100 = none ∧
    decodeTableWord 8 31 = none := by decide

/-- `withFetchWord` places a command word and a `STAGE` code so that the next step runs it. -/
theorem test_fetch_word :
    ends (step (State.reset.withFetchWord 16 0x6009)) (fun t => lastResponse t = 0x5000#16) = true ∧
    ends (step (State.reset.withFetchWord 16 0x1000)) (fun t => lastResponse t = 0x8000#16) = true ∧
    ends (step (State.reset.withFetchWord 8 0b01010)) (fun t => t.eng.stage = 11#5) = true ∧
    ends (step (State.reset.withFetchWord 8 0b00100)) (fun t => t.eng.stage = 5#5) = true := by decide +kernel

/-! ## State and memory (10_state.md R39, 20_memory.md R61) -/

theorem test_reset_memory_wf :
    Memory.wf State.reset.eng.pw ∧ Memory.wf State.reset.eng.salt ∧ Memory.wf State.reset.eng.pBuf ∧
    Memory.wf State.reset.eng.sBuf ∧ Memory.wf State.reset.eng.out := by decide

/-- A write of zero removes the entry; equal contents are equal data. -/
theorem test_memory_canonical :
    (((Memory.write [] 5 0x61#8).write 3 0x62#8).write 5 0#8) = [(3, 0x62#8)] ∧
    Memory.read [(3, 0x62#8)] 3 = 0x62#8 ∧ Memory.read [(3, 0x62#8)] 5 = 0#8 := by decide

/-! ## SHA-512 (95_test_vectors.md S1, S2, S4; 47_sha512_function.md R212) -/

theorem test_sha512_empty :
    number (sha512 []).toList =
      0xcf83e1357eefb8bdf1542850d66d8007d620e4050b5715dc83f4a921d36ce9ce47d0d13c5d85f2b0ff8318d2877eec2f63b931bd47417a81a538327af927da3e := by
  decide +kernel

theorem test_sha512_abc :
    number (sha512 [0x61#8, 0x62#8, 0x63#8]).toList =
      0xddaf35a193617abacc417349ae20413112e6fa4e89a97ea20a9eeee64b55d39a2192992a274fc1a836ba3c23a3feebbd454d4423643ce80e2a9ac94fa54ca49f := by
  decide +kernel

/-- 112 bytes need a second block. -/
theorem test_sha512_two_blocks :
    number (sha512 (List.replicate 112 0x61#8)).toList =
      0xc01d080efd492776a1c43bd23dd99d0a2e626d481e16782e75d54c2503b5dc32bd05f0f1ba33e568b88fd2d970929b719ecbb152f58f130a407c8830604b70ca := by
  decide +kernel

theorem test_block_count :
    blockCount 0 = 1 ∧ blockCount 111 = 1 ∧ blockCount 112 = 2 ∧ blockCount 239 = 2 ∧ blockCount 240 = 3 := by decide

/-! ## Data encodings (95_test_vectors.md E1, E4) -/

theorem test_enc :
    enc 0x000000#24 4 = [0x2E#8, 0x2E#8, 0x2E#8, 0x2E#8] ∧
    enc 0x000001#24 4 = [0x2F#8, 0x2E#8, 0x2E#8, 0x2E#8] ∧
    enc 0x00003F#24 4 = [0x7A#8, 0x2E#8, 0x2E#8, 0x2E#8] ∧
    enc 0x000040#24 4 = [0x2E#8, 0x2F#8, 0x2E#8, 0x2E#8] ∧
    enc 0x000FFF#24 4 = [0x7A#8, 0x7A#8, 0x2E#8, 0x2E#8] := by decide

theorem test_enc_high :
    enc 0x001000#24 4 = [0x2E#8, 0x2E#8, 0x2F#8, 0x2E#8] ∧
    enc 0xABCDEF#24 4 = [0x6A#8, 0x72#8, 0x77#8, 0x65#8] ∧
    enc 0xFFFFFF#24 4 = [0x7A#8, 0x7A#8, 0x7A#8, 0x7A#8] ∧
    enc 0x0000F2#24 2 = [0x6D#8, 0x31#8] ∧
    enc 0x0000FF#24 2 = [0x7A#8, 0x31#8] := by decide

theorem test_encode_digest_count :
    encodeDigest count64 =
      [0x65#8, 0x49#8, 0x2F#8, 0x2E#8, 0x2F#8, 0x67#8, 0x57#8, 0x33#8, 0x4C#8, 0x36#8] ++
      [0x2E#8, 0x39#8, 0x68#8, 0x55#8, 0x6C#8, 0x2E#8, 0x32#8, 0x73#8, 0x47#8, 0x34#8] ++
      [0x4F#8, 0x49#8, 0x6B#8, 0x39#8, 0x6B#8, 0x67#8, 0x56#8, 0x2F#8, 0x35#8, 0x32#8] ++
      [0x31#8, 0x35#8, 0x52#8, 0x55#8, 0x55#8, 0x41#8, 0x6E#8, 0x73#8, 0x46#8, 0x30#8] ++
      [0x38#8, 0x45#8, 0x6E#8, 0x35#8, 0x55#8, 0x67#8, 0x45#8, 0x42#8, 0x71#8, 0x32#8] ++
      [0x30#8, 0x31#8, 0x42#8, 0x51#8, 0x58#8, 0x36#8, 0x58#8, 0x73#8, 0x2E#8, 0x43#8] ++
      [0x74#8, 0x45#8, 0x6D#8, 0x31#8, 0x45#8, 0x63#8, 0x48#8, 0x37#8, 0x61#8, 0x32#8] ++
      [0x6C#8, 0x43#8, 0x77#8, 0x51#8, 0x57#8, 0x32#8, 0x48#8, 0x6F#8, 0x31#8, 0x38#8] ++
      [0x64#8, 0x45#8, 0x56#8, 0x44#8, 0x7A#8, 0x2E#8] := by
  decide +kernel

theorem test_encode_digest_ends :
    encodeDigest (Vector.replicate 64 0#8) = List.replicate 86 0x2E#8 ∧
    encodeDigest (Vector.replicate 64 0xFF#8) = List.replicate 85 0x7A#8 ++ [0x31#8] := by decide +kernel

/-! ## The stage functions (95_test_vectors.md V5, sections 2.4 and 2.5; 43_sequence_construction.md R144) -/

theorem test_alt_sum :
    number (altSum [0x61#8] [0x61#8, 0x62#8]).toList =
      0xbe990d90a4332c4a0d5eaa167362f662c53c6369e661b1e0c25c08bded348796282bffa411134404ff2f1a447c7b86dc0e53a07ed7c51bde25a442421f99196f := by
  decide +kernel

/-- Section 2.5: lengths 36 (`p p A p p A`), 65 and 200; the numbers are the message bytes with a 16-byte salt. -/
theorem test_main_message_lengths :
    (mainMsg (List.replicate 36 0#8) (List.replicate 16 0#8) count64).length = 360 ∧
    (mainMsg (List.replicate 65 0#8) (List.replicate 16 0#8) count64).length = 599 ∧
    (mainMsg (List.replicate 200 0#8) (List.replicate 16 0#8) count64).length = 1608 := by decide +kernel

/-- 70_reset_and_hazards.md R262, R263 for the reference vector: `L = 36`, `s = 8`, `b0 = 117`. -/
theorem test_run_counts :
    runSteps 36 117#8 = 30219 ∧ runDigOps 36 117#8 = 27807 ∧ runFed 36 8 117#8 = 683716 ∧
    runCompressions 36 8 117#8 = 9309 := by decide +kernel

theorem test_bits_low_bit_first :
    bits count64 [0x70#8] 6 = [0x70#8] ++ count64.toList ++ count64.toList := by decide +kernel

theorem test_stretch_restarts : (stretch count64 65).drop 63 = [63#8, 0#8] := by decide +kernel

/-! ## Host commands, one step each (the examples of 46_host_commands.md R181 to R188) -/

theorem test_nop : ends (exec .nop (stand 30#5)) (fun t => lastResponse t = 0x8000#16 ∧ t.eng.stage = 30#5) = true := by
  decide +kernel

theorem test_clr : ends (exec .clr (changed (stand 29#5) fun e => { e with outLen := 98#7, outPtr := 5#7, cmdErr := true }))
    (fun t => lastResponse t = 0x8000#16 ∧ t.eng = Engine.reset) = true := by decide +kernel

theorem test_clr_busy : ends (exec .clr (stand 28#5)) (fun t => lastResponse t = 0x3000#16 ∧ t.eng.cmdErr) = true := by
  decide +kernel

theorem test_pushp : ends (exec (.pushp 0x61#8) State.reset)
    (fun t => lastResponse t = 0x8000#16 ∧ t.eng.byteAt .pw 0 = 0x61#8 ∧ t.eng.pwLen = 1) = true := by decide +kernel

theorem test_pushp_overflow : ends (exec (.pushp 5#8) noRoom)
    (fun t => lastResponse t = 0x7000#16 ∧ t.eng.stage = 30#5 ∧ t.eng.errCode = 1#2 ∧ t.eng.rejCode = 7#3 ∧
      t.eng.status = 0x0C#8) = true := by decide +kernel

theorem test_pushs : ends (exec (.pushs 0x24#8) State.reset)
    (fun t => lastResponse t = 0x8000#16 ∧ t.eng.byteAt .salt 0 = 0x24#8 ∧ t.eng.saltLen = 1#5) = true := by decide +kernel

theorem test_pushs_dropped : ends (exec (.pushs 0x71#8) (changed State.reset fun e => { e with saltLen := 16#5 }))
    (fun t => lastResponse t = 0x8000#16 ∧ t.eng.saltLen = 16#5 ∧ t.eng.salt = []) = true := by decide +kernel

theorem test_start : ends (exec .start State.reset) (fun t => lastResponse t = 0x8000#16 ∧ t.eng.status = 0x01#8) = true := by
  decide +kernel

theorem test_popc : ends (exec .popc (changed (stand 29#5) fun e => { e with out := [(0, 0x24#8)], outLen := 90#7 }))
    (fun t => lastResponse t = 0x8024#16 ∧ t.eng.outPtr = 1#7) = true := by decide +kernel

theorem test_popc_empty : ends (exec .popc (changed (stand 29#5) fun e => { e with outLen := 90#7, outPtr := 90#7 }))
    (fun t => lastResponse t = 0x4000#16 ∧ t.eng.status = 0x0A#8) = true := by decide +kernel

theorem test_rdreg : ends (exec (.rdreg 0x08#8) (changed State.reset fun e => { e with r := 4999#13 }))
    (fun t => lastResponse t = 0x8013#16) = true := by decide +kernel

theorem test_rdreg_reserved : ends (exec (.rdreg 0x14#8) State.reset) (fun t => lastResponse t = 0x5000#16) = true := by
  decide +kernel

theorem test_illegal : ends (hostCmd 0x7000#16 State.reset) (fun t => lastResponse t = 0x1000#16 ∧ t.eng.rejCode = 1#3) = true ∧
    ends (hostCmd 0xF123#16 State.reset) (fun t => lastResponse t = 0x1000#16) = true := by decide +kernel

/-- The order of the checks (46_host_commands.md R180). -/
theorem test_reserved_before_state :
    ends (hostCmd 0x5001#16 State.reset) (fun t => lastResponse t = 0x2000#16) = true := by decide +kernel

/-! ## Sequencer operations, one step each (the examples of the files 41 to 45) -/

theorem test_aInit : ends (seqStep (stand 1#5)) (fun t => t.eng.stage = 2#5 ∧ t.eng.ctx = { isOpen := true, msg := [] }) = true := by
  decide +kernel

theorem test_aPw1 : ends (seqStep (loaded 2#5 [])) (fun t => t.eng.stage = 3#5 ∧ t.eng.ctx.msg = [0x61#8]) = true := by
  decide +kernel

theorem test_aSalt : ends (seqStep (loaded 3#5 [0x61#8]))
    (fun t => t.eng.stage = 4#5 ∧ t.eng.ctx.msg = [0x61#8, 0x61#8, 0x62#8]) = true := by decide +kernel

theorem test_aPw2 : ends (seqStep (loaded 4#5 [0x61#8, 0x61#8, 0x62#8]))
    (fun t => t.eng.stage = 5#5 ∧ t.eng.ctx.msg = [0x61#8, 0x61#8, 0x62#8, 0x61#8]) = true := by decide +kernel

theorem test_aFin : ends (seqStep (loaded 5#5 [0x61#8, 0x61#8, 0x62#8, 0x61#8]))
    (fun t => t.eng.stage = 6#5 ∧ t.eng.byteAt .alt 0 = 0xBE#8 ∧ t.eng.byteAt .alt 63 = 0x6F#8 ∧ t.eng.ctx.isOpen = false) = true := by
  decide +kernel

theorem test_mInit : ends (seqStep (stand 6#5)) (fun t => t.eng.stage = 7#5 ∧ t.eng.ctx = { isOpen := true, msg := [] }) = true := by
  decide +kernel

theorem test_mPw : ends (seqStep (loaded 7#5 [])) (fun t => t.eng.stage = 8#5 ∧ t.eng.ctx.msg = [0x61#8]) = true := by
  decide +kernel

theorem test_mSalt : ends (seqStep (loaded 8#5 [0x61#8]))
    (fun t => t.eng.stage = 9#5 ∧ t.eng.ctx.msg = [0x61#8, 0x61#8, 0x62#8] ∧ t.eng.cnt = 1) = true := by decide +kernel

/-- R134: `CNT = 64` feeds all 64 bytes and leaves 0. -/
theorem test_mCover : ends (seqStep (changed (loaded 9#5 []) fun e => { e with cnt := 64, alt := count64 }))
    (fun t => t.eng.stage = 9#5 ∧ t.eng.cnt = 0 ∧ t.eng.ctx.msg = count64.toList) = true := by decide +kernel

theorem test_mCover_exit : ends (seqStep (loaded 9#5 [])) (fun t => t.eng.stage = 10#5 ∧ t.eng.lsh = 1 ∧ t.digCount = 0) = true := by
  decide +kernel

/-- R135: a 0 bit feeds the password, a 1 bit `ALT`. -/
theorem test_mBits_zero : ends (seqStep (changed (loaded 10#5 []) fun e => { e with lsh := 36, alt := count64 }))
    (fun t => t.eng.stage = 10#5 ∧ t.eng.lsh = 18 ∧ t.eng.ctx.msg = [0x61#8]) = true := by decide +kernel

theorem test_mBits_one : ends (seqStep (changed (loaded 10#5 []) fun e => { e with lsh := 9, alt := count64 }))
    (fun t => t.eng.stage = 10#5 ∧ t.eng.lsh = 4 ∧ t.eng.ctx.msg = count64.toList) = true := by decide +kernel

theorem test_mFin : ends (seqStep (standOpen 11#5 []))
    (fun t => t.eng.stage = 12#5 ∧ t.eng.byteAt .result 0 = 0xCF#8) = true := by decide +kernel

theorem test_pInit : ends (seqStep { started with eng := { inputs with stage := 12#5 } })
    (fun t => t.eng.stage = 13#5 ∧ t.eng.cnt = 1 ∧ t.eng.ctx = { isOpen := true, msg := [] }) = true := by decide +kernel

theorem test_pRep : ends (seqStep (changed (loaded 13#5 [0x61#8]) fun e => { e with cnt := 1 }))
    (fun t => t.eng.stage = 13#5 ∧ t.eng.cnt = 0 ∧ t.eng.ctx.msg = [0x61#8, 0x61#8]) = true ∧
    ends (seqStep (loaded 13#5 [])) (fun t => t.eng.stage = 14#5) = true := by decide +kernel

/-- R143: the P digest of "a". -/
theorem test_pFin : ends (seqStep (loaded 14#5 [0x61#8]))
    (fun t => t.eng.stage = 15#5 ∧ t.eng.byteAt .dp 0 = 0x1F#8 ∧ t.eng.byteAt .dp 63 = 0x75#8) = true := by decide +kernel

/-- R144: 65 bytes, the 65th from byte 0 of `DP` again. -/
theorem test_pFill : ends (seqStep (changed (stand 15#5) fun e => { e with pwLen := 65, dp := Vector.replicate 64 7#8 }))
    (fun t => t.eng.stage = 16#5 ∧ t.eng.byteAt .p 64 = 7#8 ∧ t.eng.byteAt .p 65 = 0#8 ∧ t.digCount = 0) = true := by decide +kernel

/-- R146: `0xFF` gives 271. -/
theorem test_sInit : ends (seqStep (changed (stand 16#5) fun e => { e with result := Vector.replicate 64 0xFF#8 }))
    (fun t => t.eng.stage = 17#5 ∧ t.eng.cnt = 271) = true := by decide +kernel

theorem test_sRep : ends (seqStep (changed (loaded 17#5 []) fun e => { e with cnt := 16 }))
    (fun t => t.eng.stage = 17#5 ∧ t.eng.cnt = 15 ∧ t.eng.ctx.msg = [0x61#8, 0x62#8]) = true ∧
    ends (seqStep (loaded 17#5 [])) (fun t => t.eng.stage = 18#5) = true := by decide +kernel

theorem test_sFin : ends (seqStep (standOpen 18#5 [])) (fun t => t.eng.stage = 19#5 ∧ t.eng.byteAt .ds 1 = 0x83#8) = true := by
  decide +kernel

theorem test_sFill : ends (seqStep (changed (stand 19#5) fun e => { e with ds := count64, saltLen := 3#5, r := 9#13 }))
    (fun t => t.eng.stage = 20#5 ∧ t.eng.sBytes = [0#8, 1#8, 2#8] ∧ t.eng.byteAt .s 3 = 0#8 ∧ t.eng.r = 0#13) = true := by
  decide +kernel

theorem test_rInit : ends (seqStep (stand 20#5)) (fun t => t.eng.stage = 21#5 ∧ t.eng.ctx = { isOpen := true, msg := [] }) = true := by
  decide +kernel

/-- A round's state: the P-sequence "p", the S-sequence "s", `RESULT` the bytes 0 to 63. -/
def round (c : BitVec 5) (r : BitVec 13) : State :=
  changed (standOpen c []) fun e =>
    { e with r := r, pwLen := 1, saltLen := 1#5, pBuf := [(0, 0x70#8)], sBuf := [(0, 0x73#8)], result := count64 }

theorem test_rF1 : ends (seqStep (round 21#5 0#13)) (fun t => t.eng.stage = 22#5 ∧ t.eng.ctx.msg = count64.toList) = true ∧
    ends (seqStep (round 21#5 1#13)) (fun t => t.eng.ctx.msg = [0x70#8]) = true := by decide +kernel

theorem test_rF2 : ends (seqStep (round 22#5 3#13)) (fun t => t.eng.stage = 23#5 ∧ t.eng.ctx.msg = [] ∧ t.digCount = 0) = true ∧
    ends (seqStep (round 22#5 4#13)) (fun t => t.eng.ctx.msg = [0x73#8] ∧ t.digCount = 1) = true := by decide +kernel

theorem test_rF3 : ends (seqStep (round 23#5 7#13)) (fun t => t.eng.stage = 24#5 ∧ t.eng.ctx.msg = [] ∧ t.digCount = 0) = true ∧
    ends (seqStep (round 23#5 8#13)) (fun t => t.eng.ctx.msg = [0x70#8] ∧ t.digCount = 1) = true := by decide +kernel

theorem test_rF4 : ends (seqStep (round 24#5 0#13)) (fun t => t.eng.stage = 25#5 ∧ t.eng.ctx.msg = [0x70#8]) = true ∧
    ends (seqStep (round 24#5 1#13)) (fun t => t.eng.ctx.msg = count64.toList) = true := by decide +kernel

theorem test_rFin : ends (seqStep (round 25#5 4998#13)) (fun t => t.eng.stage = 20#5 ∧ t.eng.r = 4999#13) = true := by
  decide +kernel

theorem test_rFin_last : ends (seqStep (round 25#5 4999#13))
    (fun t => t.eng.stage = 26#5 ∧ t.eng.r = 4999#13 ∧ t.eng.byteAt .result 0 = 0xCF#8) = true := by decide +kernel

/-- R171 with the salt of V5. -/
theorem test_ePrefix : ends (seqStep { started with eng := { inputs with stage := 26#5 } })
    (fun t => t.eng.stage = 27#5 ∧ t.eng.outBytes = [0x24#8, 0x36#8, 0x24#8, 0x61#8, 0x62#8, 0x24#8]) = true := by decide +kernel

/-- R172 on the digest of E4: group 0 of the bytes 0 to 63 is `eI/.`. -/
theorem test_eGroup : ends (seqStep (changed (stand 27#5) fun e => { e with outLen := 4#7, result := count64 }))
    (fun t => t.eng.stage = 27#5 ∧ t.eng.outLen = 8#7 ∧ t.eng.g = 1#5 ∧
      t.eng.bytes .out 4 4 = [0x65#8, 0x49#8, 0x2F#8, 0x2E#8]) = true := by decide +kernel

theorem test_eGroup_exit : ends (seqStep (changed (stand 27#5) fun e => { e with outLen := 88#7, g := 21#5 }))
    (fun t => t.eng.stage = 28#5 ∧ t.eng.outLen = 88#7) = true := by decide +kernel

/-- R173: byte `0xF2` gives `m1`, `OUTLEN` goes from 96 to 98. -/
theorem test_eLast : ends (seqStep (changed (stand 28#5) fun e =>
      { e with outLen := 96#7, result := Vector.replicate 64 0xF2#8, pwLen := 3, cnt := 1 }))
    (fun t => t.eng.outLen = 98#7 ∧ t.eng.bytes .out 96 2 = [0x6D#8, 0x31#8] ∧ t.eng.status = 0x12#8 ∧ t.eng.pwLen = 0 ∧
      t.eng.cnt = 0 ∧ t.eng.result = Engine.reset.result) = true := by decide +kernel

/-! ## The digest port (95_test_vectors.md T2, T5, T6, T8) -/

theorem test_dig_abc :
    ends (execAll [.digStart, .digFeed [0x61#8], .digStart, .digFeed [0x61#8], .digFeed [], .digFeed [0x62#8, 0x63#8], .digFinal]
        State.reset)
      (fun t => t.eng.ctx = { isOpen := false, msg := [] } ∧ t.digReply = some (sha512 [0x61#8, 0x62#8, 0x63#8])) = true := by
  decide +kernel

theorem test_dig_open :
    ends (execAll [.digStart, .digFeed [0x61#8]] State.reset) (fun t => t.eng.ctx = { isOpen := true, msg := [0x61#8] }) = true := by
  decide +kernel

theorem test_dig_fail :
    ends (seqStep (withAnswer true (loaded 5#5 [0x61#8])))
      (fun t => t.eng.stage = 30#5 ∧ t.eng.errCode = 2#2 ∧ t.eng.pwLen = 0 ∧ t.eng.alt = Engine.reset.alt ∧ t.eng.status = 0x04#8 ∧
        t.eng.ctx.isOpen = false) = true := by decide +kernel

theorem test_dig_closed : exec .digFinal State.reset = .fault .digestPortClosed := by rfl

/-! ## Whose turn it is -/

theorem test_turns :
    ends (run 3 { State.reset with agenda := [.hostCmd 0x4000#16, .seqTurn, .hostCmd 0x6003#16] })
      (fun t => lastResponse t = 0x8002#16 ∧ t.agenda = []) = true ∧
    ends (run 2 { started with agenda := [.seqTurn, .hardReset] }) (fun t => t.eng = Engine.reset) = true ∧
    ends (step State.reset) (fun t => t = State.reset) = true := by decide +kernel

/-! ## Witnesses: for each obligation with hypotheses, states and operands that meet them, clause by clause -/

theorem witness_inv_reset : State.reset.Inv where
  bounded := by constructor <;> decide
  memForm := by constructor <;> decide
  zeroTails := by constructor <;> intro k _ <;> rfl
  ctxByStage := ⟨by decide, fun _ => rfl⟩
  filled := ⟨fun h => absurd h (by decide), fun h => absurd h (by decide)⟩
  quiescent := ⟨fun _ => rfl, fun h => absurd h (by decide), fun h => absurd h (by decide)⟩
  outProgress := ⟨fun _ => ⟨rfl, rfl⟩, fun h => absurd h (by decide), fun h => absurd h (by decide), fun h => absurd h (by decide)⟩
  errCodes := ⟨by decide, by decide, fun _ => rfl, fun h => absurd h (by decide)⟩

theorem witness_inv_started : started.Inv where
  bounded := by constructor <;> decide
  memForm := by constructor <;> decide
  zeroTails := by
    constructor
    · intro k hk
      have h : 0 ≠ k := by
        have : 1 ≤ k := hk
        omega
      simp [started, inputs, Memory.read, h]
    · intro k hk
      have h : 0 ≠ k ∧ 1 ≠ k := by
        have : 2 ≤ k := hk
        omega
      simp [started, inputs, Memory.read, h]
    all_goals
      intro k _
      rfl
  ctxByStage := ⟨by decide, fun _ => rfl⟩
  filled := ⟨fun h => absurd h (by decide), fun h => absurd h (by decide)⟩
  quiescent := ⟨fun h => absurd h (by decide), fun h => absurd h (by decide), fun h => absurd h (by decide)⟩
  outProgress := ⟨fun _ => ⟨rfl, rfl⟩, fun h => absurd h (by decide), fun h => absurd h (by decide), fun h => absurd h (by decide)⟩
  errCodes := ⟨by decide, by decide, fun _ => rfl, fun h => absurd h (by decide)⟩

/-- A unit that cannot fail answers ok as often as it is asked. -/
theorem witness_okFor (n : Nat) : State.reset.okFor n ∧ started.okFor n ∧ noRoom.okFor n :=
  ⟨fun _ _ => rfl, fun _ _ => rfl, fun _ _ => rfl⟩

/-- O2: a word and an instruction on both sides of the equivalence, a feed of exactly `PW_MAX` bytes, and the last clause's premises
on the longest well-formed feed. -/
theorem witness_DecodeIffEncode :
    (decode Params.default (.cmd16 0x2061#16) = .ok (.pushp 0x61#8) ∧ Encoded.cmd16 0x2061#16 = encode (.pushp 0x61#8)) ∧
    (decode { pwMax := 1, digestCanFail := false } (.digop2 2#2 [0x61#8]) = .ok (.digFeed [0x61#8]) ∧
      Encoded.digop2 2#2 [0x61#8] = encode (.digFeed [0x61#8]) ∧ [0x61#8].length = 1) ∧
    (64 ≤ Params.pwMax { pwMax := 64, digestCanFail := false } ∧
      Instr.wf { pwMax := 64, digestCanFail := false } (.digFeed count64.toList) = true) := by decide +kernel

/-- O3: a word of each row, the lowest and the highest. -/
theorem witness_MatchMaskTable :
    (0x2000#16 &&& 0xFF00#16 = 0x2000#16) ∧ (0x20FF#16 &&& 0xFF00#16 = 0x2000#16) ∧ (0x7000#16 &&& 0xF000#16 = 0x7000#16) ∧
    (0x7FFF#16 &&& 0xF000#16 = 0x7000#16) ∧ (0x8000#16 &&& 0x8000#16 = 0x8000#16) ∧ (0xFFFF#16 &&& 0x8000#16 = 0x8000#16) := by
  decide

/-- O4: the words where the three classes meet: `0x7000`, `0x6F00`, `0x0001`, `0x60FF`. -/
theorem witness_WordClassification :
    (0x7000#16).toNat / 2 ^ 12 ≥ 7 ∧ (0x6F00#16).toNat / 2 ^ 12 < 7 ∧ (0x6F00#16).toNat / 2 ^ 8 % 2 ^ 4 ≠ 0 ∧
    ((0x0001#16).toNat / 2 ^ 8 % 2 ^ 4 = 0 ∧ (0x0001#16).toNat % 2 ^ 8 ≠ 0 ∧ (0x0001#16).toNat / 2 ^ 12 ∈ [0, 1, 4, 5]) ∧
    ((0x60FF#16).toNat / 2 ^ 12 < 7 ∧ (0x60FF#16).toNat / 2 ^ 8 % 2 ^ 4 = 0 ∧ (0x60FF#16).toNat / 2 ^ 12 ∉ [0, 1, 4, 5]) := by
  decide

/-- O5, O14: `Bounded` holds after reset and in a run. -/
theorem witness_EveryWordOneResponse : State.reset.eng.Bounded State.reset.cfg ∧ started.eng.Bounded started.cfg :=
  ⟨witness_inv_reset.bounded, witness_inv_started.bounded⟩

/-- O6, O7, O14, O33: the classes of `STAGE` at their ends. -/
theorem witness_stages :
    (stand 0#5).eng.stage = 0#5 ∧ (stand 1#5).eng.stage ≠ 0#5 ∧ (stand 30#5).eng.stage ≠ 0#5 ∧
    (stand 29#5).eng.stage = 29#5 ∧ (stand 28#5).eng.stage ≠ 29#5 ∧
    (stand 30#5).eng.stage ∈ [0#5, 29#5, 30#5] ∧ (stand 28#5).eng.stage ∉ [0#5, 29#5, 30#5] ∧
    (stand 1#5).eng.isBusy = true ∧ (stand 28#5).eng.isBusy = true ∧ (stand 29#5).eng.isBusy = false ∧
    (stand 0#5).eng.isBusy = false ∧ (stand 30#5).eng.stage ≠ 31#5 := by decide

/-- O6 to O11: for each opcode a word with a reserved field that is not zero. -/
theorem witness_rejectsReserved :
    ((0x0001#16).toNat / 2 ^ 12 = 0 ∧ (0x0001#16).toNat % 2 ^ 8 ≠ 0) ∧ ((0x1F00#16).toNat / 2 ^ 12 = 1 ∧ (0x1F00#16).toNat / 2 ^ 8 % 2 ^ 4 ≠ 0) ∧
    ((0x2100#16).toNat / 2 ^ 12 = 2 ∧ (0x2100#16).toNat / 2 ^ 8 % 2 ^ 4 ≠ 0) ∧
    ((0x3100#16).toNat / 2 ^ 12 = 3 ∧ (0x3100#16).toNat / 2 ^ 8 % 2 ^ 4 ≠ 0) ∧
    ((0x4001#16).toNat / 2 ^ 12 = 4 ∧ (0x4001#16).toNat % 2 ^ 8 ≠ 0) ∧ ((0x50FF#16).toNat / 2 ^ 12 = 5 ∧ (0x50FF#16).toNat % 2 ^ 8 ≠ 0) ∧
    ((0x6100#16).toNat / 2 ^ 12 = 6 ∧ (0x6100#16).toNat / 2 ^ 8 % 2 ^ 4 ≠ 0) := by decide

/-- O8: the first push, the push that fills, the push that finds the buffer full, and a push in `DONE`. -/
theorem witness_PushpCompletes :
    (State.reset.eng.stage = 0#5 ∧ State.reset.eng.pwLen < State.reset.cfg.pwMax ∧ State.reset.eng.pw.wf) ∧
    (let s := changed State.reset fun e => { e with pwLen := 1023 };
      s.eng.stage = 0#5 ∧ s.eng.pwLen < s.cfg.pwMax ∧ s.eng.pw.wf) ∧
    (let s := changed State.reset fun e => { e with pwLen := 1024 };
      s.eng.stage = 0#5 ∧ s.eng.pwLen = s.cfg.pwMax) ∧
    (noRoom.eng.stage = 0#5 ∧ noRoom.eng.pwLen = noRoom.cfg.pwMax) := by decide

/-- O9: 0, 15 and 16 salt bytes held. -/
theorem witness_PushsCompletes :
    (State.reset.eng.stage = 0#5 ∧ State.reset.eng.saltLen.toNat < 16 ∧ State.reset.eng.salt.wf) ∧
    (let s := changed State.reset fun e => { e with saltLen := 15#5 };
      s.eng.stage = 0#5 ∧ s.eng.saltLen.toNat < 16 ∧ s.eng.salt.wf) ∧
    (let s := changed State.reset fun e => { e with saltLen := 16#5 };
      s.eng.stage = 0#5 ∧ 16 ≤ s.eng.saltLen.toNat) := by decide

/-- O10: the last byte of the longest output, and none left. -/
theorem witness_PopcCompletes :
    (let s := changed (stand 29#5) fun e => { e with outLen := 106#7, outPtr := 105#7 };
      s.eng.stage = 29#5 ∧ s.eng.outPtr.toNat < s.eng.outLen.toNat ∧ s.eng.outLen.toNat ≤ 106) ∧
    (let s := changed (stand 29#5) fun e => { e with outLen := 106#7, outPtr := 106#7 };
      s.eng.stage = 29#5 ∧ s.eng.outPtr = s.eng.outLen) := by decide

/-- O11: the reserved selectors at the ends of their ranges. -/
theorem witness_RdregCompletes :
    (0x09 ≤ (0x09#8).toNat ∧ (0x09#8).toNat ≤ 0x0F) ∧ (0x09 ≤ (0x0F#8).toNat ∧ (0x0F#8).toNat ≤ 0x0F) ∧
    (0x09 ≤ (0x14#8).toNat ∧ 0x14 ≤ (0x14#8).toNat) ∧ (0x09 ≤ (0xFF#8).toNat ∧ 0x14 ≤ (0xFF#8).toNat) := by decide

/-- O12, O13: an opcode of 7 and one of 15; a `STAGE` that is not 31. -/
theorem witness_IllegalWordsRejected : 7 ≤ (0x7000#16).toNat / 2 ^ 12 ∧ 7 ≤ (0xFFFF#16).toNat / 2 ^ 12 := by decide

/-- O14: a command while BUSY that answers a next state. -/
theorem witness_AcceptanceByClass :
    started.eng.isBusy = true ∧ ∃ t, hostCmd 0x1000#16 started = .next t := ⟨by decide, _, rfl⟩

/-- O15: a rejection, the overflow, an acknowledgement, a sequencer step. -/
theorem witness_RejectionWritesOnlyErrors :
    (∃ t, hostCmd 0x5000#16 State.reset = .next t ∧ t.responses = State.reset.responses ++ [0x3000#16]) ∧
    (∃ t, hostCmd 0x2005#16 noRoom = .next t ∧ t.responses = noRoom.responses ++ [0x7000#16]) ∧
    (∃ t, hostCmd 0x4000#16 State.reset = .next t ∧ t.responses = State.reset.responses ++ [0x8000#16]) ∧
    (∃ t, seqStep started = .next t) ∧ (0x3000#16).getLsbD 15 = false ∧ (0x8000#16).getLsbD 15 = true :=
  ⟨⟨_, rfl, rfl⟩, ⟨_, rfl, rfl⟩, ⟨_, rfl, rfl⟩, ⟨_, rfl⟩, by decide, by decide⟩

/-- O16, O17, O30, O32: both answers of the digest unit. -/
theorem witness_answers :
    State.reset.failsAt 0 = false ∧ (withAnswer true State.reset).failsAt 0 = true ∧
    (withAnswer false State.reset).failsAt 0 = false ∧ State.reset.cfg.digestCanFail = false ∧
    (withAnswer true State.reset).cfg.digestCanFail = true ∧ (withAnswer true State.reset).answers[0]? = some true :=
  ⟨rfl, rfl, rfl, rfl, rfl, rfl⟩

/-- O18, O19, O23, O30, O31: an open context with inputs that fit, and a closed one. -/
theorem witness_PasswordFeeds :
    ((loaded 2#5 []).eng.ctx.isOpen = true ∧ (loaded 2#5 []).inputsFit) ∧
    (let s := changed (loaded 2#5 []) fun e => { e with pwLen := 1024, saltLen := 16#5 };
      s.eng.ctx.isOpen = true ∧ s.inputsFit) ∧ State.reset.eng.ctx.isOpen = false :=
  ⟨⟨rfl, by decide, by decide⟩, ⟨rfl, by decide, by decide⟩, rfl⟩

/-- O20 to O22: the loops at their last iteration and at their exit. -/
theorem witness_loops :
    (let s := changed (loaded 9#5 []) fun e => { e with cnt := 1, lsh := 1 };
      0 < s.eng.cnt ∧ s.eng.lsh ≠ 0 ∧ s.eng.ctx.isOpen = true ∧ s.inputsFit) ∧
    (loaded 9#5 []).eng.cnt = 0 ∧ (loaded 9#5 []).eng.lsh = 0 :=
  ⟨⟨by decide, by decide, rfl, by decide, by decide⟩, rfl, rfl⟩

/-- O24: inputs that fit and buffers in canonical form. -/
theorem witness_SequenceFills : started.inputsFit ∧ started.eng.pBuf.wf ∧ started.eng.sBuf.wf ∧ started.eng.out.wf :=
  ⟨⟨by decide, by decide⟩, by decide, by decide, by decide⟩

/-- O25: rounds that feed both middle parts, none, and one; an odd and an even one. -/
theorem witness_RoundFeeds :
    (round 21#5 0#13).eng.ctx.isOpen = true ∧ (round 21#5 0#13).inputsFit ∧
    (round 21#5 1#13).eng.r.toNat % 3 ≠ 0 ∧ (round 21#5 1#13).eng.r.toNat % 7 ≠ 0 ∧ (round 21#5 1#13).eng.r.toNat % 2 = 1 ∧
    (round 21#5 4998#13).eng.r.toNat % 3 = 0 ∧ (round 21#5 4998#13).eng.r.toNat % 7 = 0 ∧ (round 21#5 4998#13).eng.r.toNat % 2 ≠ 1 :=
  ⟨rfl, ⟨by decide, by decide⟩, by decide, by decide, by decide, by decide, by decide, by decide⟩

/-- O26: the last round and the one before it. -/
theorem witness_RoundEnds :
    (round 25#5 4998#13).eng.ctx.isOpen = true ∧ (round 25#5 4998#13).eng.r.toNat < 4999 ∧ 4999 ≤ (round 25#5 4999#13).eng.r.toNat := by
  decide

/-- O27 to O29: the encoding stage at its ends. -/
theorem witness_encoding :
    (started.inputsFit ∧ started.eng.out.wf) ∧
    (let s := changed (stand 27#5) fun e => { e with g := 20#5, outLen := 100#7 };
      s.eng.g.toNat < 21 ∧ s.eng.outLen.toNat ≤ 102 ∧ s.eng.out.wf) ∧
    (let s := changed (stand 27#5) fun e => { e with g := 21#5 };
      21 ≤ s.eng.g.toNat) ∧
    (let s := changed (stand 28#5) fun e => { e with outLen := 104#7 };
      s.eng.outLen.toNat ≤ 104 ∧ s.eng.out.wf) :=
  ⟨⟨⟨by decide, by decide⟩, by decide⟩, by decide, by decide, by decide⟩

/-- O32: an issuing operation that the unit fails, in an open context and at the start of one. -/
theorem witness_DigestFailureEntersFault :
    (decodeStage5 2#5 = .ok .aPw1 ∧ issuesPortOp .aPw1 (withAnswer true (loaded 2#5 [])).eng ∧
      (withAnswer true (loaded 2#5 [])).inputsFit ∧ (withAnswer true (loaded 2#5 [])).eng.ctx.isOpen = true ∧
      (withAnswer true (loaded 2#5 [])).failsAt 0 = true) ∧
    (decodeStage5 1#5 = .ok .aInit ∧ issuesPortOp .aInit (withAnswer true started).eng ∧ startsContext .aInit ∧
      (withAnswer true started).failsAt 0 = true) :=
  ⟨⟨by decide, Or.inl (by decide), ⟨by decide, by decide⟩, rfl, rfl⟩, by decide, Or.inl (by decide), by simp [startsContext], rfl⟩

/-- O33: a step that issues, one that does not, and one that faults. -/
theorem witness_PortUse :
    (∃ t, exec .aInit started = .next t) ∧ issuesPortOp .aInit started.eng ∧
    (∃ t, exec .mCover (stand 9#5) = .next t) ∧ ¬issuesPortOp .mCover (stand 9#5).eng ∧
    (∃ t, exec .aInit (withAnswer true started) = .next t ∧ t.eng.stage = 30#5) := by
  refine ⟨⟨_, rfl⟩, Or.inl (by decide), ⟨_, rfl⟩, ?_, ⟨_, rfl, rfl⟩⟩
  simp [issuesPortOp, stand, Engine.reset]

/-- O34: each kind of turn. -/
theorem witness_StepRunsDecoded :
    decodeCmd16 0x6009#16 = .ok (.rdreg 0x09#8) ∧ decodeCmd16 0x0100#16 = .error .reservedField ∧
    decodeStage5 started.eng.stage = .ok .aInit ∧ started.agenda = [] ∧ State.reset.eng.isBusy = false ∧
    { started with agenda := [.seqTurn, .hardReset] }.agenda = .seqTurn :: [.hardReset] := by decide

/-- O35: a forward step, a loop step and the one backward step. -/
theorem witness_StageTransitions :
    (∃ t, seqStep started = .next t ∧ t.eng.stage ≠ 30#5) ∧
    (∃ t, seqStep (round 25#5 0#13) = .next t ∧ t.eng.stage ≠ 30#5 ∧ t.eng.stage.toNat < (round 25#5 0#13).eng.stage.toNat) ∧
    started.eng.isBusy = true ∧ (round 25#5 0#13).eng.isBusy = true :=
  ⟨⟨_, rfl, by decide⟩, ⟨_, rfl, by decide, by decide⟩, by decide, by decide⟩

/-- O36, O39, O41: steps of all three agents. -/
theorem witness_steps :
    (∃ t, step started = .next t ∧ t.eng.isBusy = true) ∧
    (∃ t, step { State.reset with agenda := [.hostCmd 0x4000#16] } = .next t ∧ t.eng.isBusy = true) ∧
    (∃ t, step { stand 29#5 with agenda := [.hostCmd 0x1000#16] } = .next t ∧ t.eng.stage = 0#5) ∧
    (∃ t, step { started with agenda := [.hardReset] } = .next t ∧ t.eng.stage = 0#5) ∧
    (∃ t, step { State.reset with agenda := [.hostCmd 0x2061#16] } = .next t ∧ t.eng.stage = 0#5) ∧
    (∃ t, step { State.reset with agenda := [.hostCmd 0x7000#16] } = .next t ∧ t.eng.stage = 0#5) ∧
    (∃ t, step { stand 31#5 with agenda := [] } = .next t ∧ t.eng.stage = 31#5) :=
  ⟨⟨_, rfl, by decide⟩, ⟨_, rfl, by decide⟩, ⟨_, rfl, rfl⟩, ⟨_, rfl, rfl⟩, ⟨_, rfl, rfl⟩, ⟨_, rfl, rfl⟩, ⟨_, rfl, rfl⟩⟩

/-- O37, O38: the invariant holds after reset and in a run. -/
theorem witness_StepKeepsInvariant : State.reset.Inv ∧ started.Inv := ⟨witness_inv_reset, witness_inv_started⟩

/-- O42: two states that differ in the error registers and the responses. -/
theorem witness_RunIgnoresErrorRegisters :
    let t := { started with eng := { started.eng with cmdErr := true, rejCode := 3#3 }, responses := [0x3000#16] }
    SameRun started t ∧ t ≠ started ∧ ∃ s', seqStep started = .next s' :=
  ⟨⟨rfl, rfl, rfl, rfl⟩, by decide, _, rfl⟩

/-- O43: two rejected commands around a sequencer turn. -/
theorem witness_InterleavingIrrelevant :
    let s := { started with agenda := [.hostCmd 0x1000#16, .seqTurn, .hostCmd 0x7000#16] }
    s.Inv ∧ Event.hardReset ∉ s.agenda ∧
      ∀ k ≤ turnsOf s.agenda, ∃ u, run k { s with agenda := [] } = .next u ∧ u.eng.isBusy = true := by
  refine ⟨witness_inv_started, by decide, fun k hk => ?_⟩
  match k, hk with
  | 0, _ => exact ⟨_, rfl, by decide⟩
  | 1, _ => exact ⟨_, rfl, by decide⟩
  | k + 2, hk => exact absurd hk (by simp [turnsOf])

/-- O44: two engines with different secrets and the same view. -/
theorem witness_HostSeesOnlyView :
    let t := changed started fun e => { e with pw := [(0, 0x62#8)], ctx := { isOpen := false, msg := [0#8] } }
    started.eng.hostView = t.eng.hostView ∧ started.cfg = t.cfg ∧ started.eng ≠ t.eng ∧
      ∃ s', hostCmd 0x6000#16 started = .next s' := ⟨by decide, rfl, by decide, _, rfl⟩

/-- O46, O49: digests with the same encoding; a message the length field can count. -/
theorem witness_EncodingInjective : encodeDigest count64 = encodeDigest count64 ∧ ([0x61#8] : List Byte).length < 2 ^ 125 :=
  ⟨rfl, by simp⟩

/-- O51: a state that meets it for three feeds. -/
theorem witness_OnlyConcatenation : started.okFor (([[], [0x61#8], []] : List (List Byte)).length + 2) := fun _ _ => rfl

/-- O52: next states of the commands named. -/
theorem witness_FrameHostCommands :
    (∃ t, exec .nop State.reset = .next t) ∧ (∃ t, exec (.rdreg 0#8) State.reset = .next t) ∧
    (∃ t, exec (.illegalOp7 0#12) State.reset = .next t) ∧ (∃ t, exec (.illegalOp8to15 0#15) State.reset = .next t) ∧
    (∃ t, exec .start State.reset = .next t) ∧ (∃ t, exec .popc State.reset = .next t) ∧ (∃ t, exec .clr started = .next t) ∧
    (∃ t, exec (.pushp 1#8) State.reset = .next t) ∧ (∃ t, exec (.pushs 1#8) State.reset = .next t) :=
  ⟨⟨_, rfl⟩, ⟨_, rfl⟩, ⟨_, rfl⟩, ⟨_, rfl⟩, ⟨_, rfl⟩, ⟨_, rfl⟩, ⟨_, rfl⟩, ⟨_, rfl⟩, ⟨_, rfl⟩⟩

/-- O53: next states, no faults, of a store and of the last step. -/
theorem witness_FrameSequencer :
    (∃ t, exec .ePrefix started = .next t ∧ t.eng.stage ≠ 30#5) ∧ (∃ t, exec .eLast (stand 28#5) = .next t ∧ t.eng.stage ≠ 30#5) ∧
    decodeStage5 26#5 = .ok .ePrefix ∧ decodeStage5 28#5 = .ok .eLast :=
  ⟨⟨_, rfl, by decide⟩, ⟨_, rfl, by decide⟩, by decide, by decide⟩

/-- O54 to O58: a state at the start of each stage. -/
theorem witness_stage_summaries :
    (started.agenda = [] ∧ started.eng.stage = 1#5 ∧ started.inputsFit ∧ started.okFor 5) ∧
    (∀ c n, let s := { started with eng := { inputs with stage := c } }
      s.agenda = [] ∧ s.eng.stage = c ∧ s.eng.r = 0#13 ∧ s.inputsFit ∧ s.eng.MemForm ∧ s.okFor n) :=
  ⟨⟨rfl, rfl, ⟨by decide, by decide⟩, fun _ _ => rfl⟩, fun _ _ =>
    ⟨rfl, rfl, rfl, ⟨(by decide : 1 ≤ 1024), (by decide : 2 ≤ 16)⟩,
      ⟨witness_inv_started.memForm.pw, witness_inv_started.memForm.salt, Memory.wf_nil, Memory.wf_nil, Memory.wf_nil⟩,
      fun _ _ => rfl⟩⟩

/-- O59. -/
theorem witness_EngineComputesCrypt6 : started.Inv ∧ started.agenda = [] ∧ started.eng.stage = 1#5 ∧ ∀ n, started.okFor n :=
  ⟨witness_inv_started, rfl, rfl, fun _ _ _ => rfl⟩

/-- O60: a password of `PW_MAX` bytes and one of a byte more; turns that are always enough for the empty one. -/
theorem witness_CanonicalSequence :
    (State.reset.Inv ∧ State.reset.eng.stage ∈ [0#5, 29#5, 30#5] ∧ ∀ n, State.reset.okFor n) ∧
    (List.replicate 1024 0x61#8).length ≤ State.reset.cfg.pwMax ∧
    (∀ b0 : Byte, runSteps ([] : List Byte).length b0 ≤ 30314) ∧
    State.reset.cfg.pwMax < (List.replicate 1025 0x61#8).length := by
  refine ⟨⟨witness_inv_reset, by decide, fun _ _ _ => rfl⟩, le_of_eq List.length_replicate, fun b0 => ?_,
    lt_of_lt_of_eq (Nat.lt_succ_self 1024) List.length_replicate.symm⟩
  have := b0.isLt
  simp only [runSteps, mainSteps, pSteps, sSteps, coverChunks, bitlen, List.length_nil, Config.rounds]
  simp
  omega

end Sys2Proof.Tests
end

/-! ## Runs of the machine -/

namespace Sys2Proof

open Machine

/-! ### One step -/

theorem step_of_cons {s : State} {ev : Event} {rest : List Event} (h : s.agenda = ev :: rest) :
    step s = runEvent ev { s with agenda := rest } := by
  simp only [step, State.nextEvent, State.popEvent, h, List.headD_cons, List.tail_cons]

/-- With nothing more on the agenda the sequencer has the turn (log entry 1). -/
theorem step_of_nil {s : State} (h : s.agenda = []) : step s = seqStep s := by
  have hpop : s.popEvent = s := by simp only [State.popEvent, h, List.tail_nil]; rw [← h]
  simp only [step, State.nextEvent, h, List.headD_nil, hpop, runEvent]

theorem hostCmd_of_decode {w : Word16} {i : Instr} (h : decodeCmd16 w = .ok i) (s : State) :
    hostCmd w s = exec i s := by
  simp only [hostCmd, h]

theorem hostCmd_of_error {w : Word16} {err : DecodeError} (h : decodeCmd16 w = .error err) (s : State) :
    hostCmd w s = .next (s.rejected 2#3) := by
  simp only [hostCmd, h, State.reject_eq_rejected, RejCause.code]

theorem seqStep_of_decode {s : State} {i : Instr} (h : decodeStage5 s.eng.stage = .ok i) : seqStep s = exec i s := by
  simp only [seqStep, h]

/-- The BUSY codes are exactly those that select a sequencer operation (10_state.md R26). -/
theorem isBusy_eq_decodes (e : Engine) : e.isBusy = (decodeStage5 e.stage).isOk := by
  have h : ∀ c : BitVec 5, (Stage.aInit.ule c && c.ule Stage.eLast) = (decodeStage5 c).isOk := by decide
  exact h e.stage

theorem isBusy_of_decode {e : Engine} {i : Instr} (h : decodeStage5 e.stage = .ok i) : e.isBusy = true := by
  rw [isBusy_eq_decodes, h]
  rfl

theorem seqStep_of_not_busy {s : State} (h : s.eng.isBusy = false) : seqStep s = .next s := by
  rw [isBusy_eq_decodes] at h
  unfold seqStep
  split
  next i hi => simp [hi, Except.isOk, Except.toBool] at h
  next => rfl

/-- Settles O34: the agenda's first entry, or the sequencer where it is empty, selects the decoder that is asked. -/
theorem stepRunsDecoded : Obligations.StepRunsDecoded := by
  intro s rest
  refine ⟨fun w i h hd => ?_, fun w err h hd => ?_, fun i h hd => ?_, fun i h hd => ?_, fun h hb => ?_,
    fun h hb => ?_, fun h => ?_⟩
  · rw [step_of_cons h, runEvent, hostCmd_of_decode hd]
  · rw [step_of_cons h, runEvent, hostCmd_of_error hd]
  · rw [step_of_cons h, runEvent]
    exact seqStep_of_decode hd
  · rw [step_of_nil h, seqStep_of_decode hd]
  · rw [step_of_cons h, runEvent]
    exact seqStep_of_not_busy hb
  · rw [step_of_nil h, seqStep_of_not_busy hb]
  · rw [step_of_cons h]
    rfl

/-! ### Runs of steps taken while BUSY -/

/-- `n` steps lead from the first state to the second, and the engine is BUSY before each of them. -/
inductive BusyRun : Nat → State → State → Prop where
  | refl (s : State) : BusyRun 0 s s
  | head {n : Nat} {s t u : State} (busy : s.eng.isBusy = true) (first : step s = .next t) (rest : BusyRun n t u) :
      BusyRun (n + 1) s u

theorem run_succ_of_step {s t : State} (h : step s = .next t) (n : Nat) : run (n + 1) s = run n t := by
  have hs : core.step s = .next t := h
  simp only [run, Host.Core.run, hs]
  rfl

theorem BusyRun.run_eq {n : Nat} {s t : State} (h : BusyRun n s t) : run n s = .next t := by
  induction h with
  | refl s => rfl
  | head _ first _ ih => rw [run_succ_of_step first, ih]

theorem BusyRun.busy_before {n : Nat} {s t : State} (h : BusyRun n s t) :
    ∀ k < n, ∃ u, run k s = .next u ∧ u.eng.isBusy = true := by
  induction h with
  | refl s => exact fun k hk => absurd hk (Nat.not_lt_zero k)
  | @head n s t u busy first _ ih =>
    intro k hk
    cases k with
    | zero => exact ⟨s, rfl, busy⟩
    | succ k =>
      rw [run_succ_of_step first]
      exact ih k (Nat.lt_of_succ_lt_succ hk)

theorem BusyRun.trans {m n : Nat} {s t u : State} (h : BusyRun m s t) (h' : BusyRun n t u) : BusyRun (m + n) s u := by
  induction h with
  | refl s => rwa [Nat.zero_add]
  | @head m _ _ _ busy first _ ih =>
    rw [Nat.add_right_comm]
    exact .head busy first (ih h')

theorem BusyRun.cast {m n : Nat} {s t : State} (h : BusyRun m s t) (hmn : m = n) : BusyRun n s t := hmn ▸ h

theorem BusyRun.single {s t : State} {i : Instr} (hag : s.agenda = []) (hd : decodeStage5 s.eng.stage = .ok i)
    (hx : exec i s = .next t) : BusyRun 1 s t :=
  .head (isBusy_of_decode hd) (by rw [step_of_nil hag, seqStep_of_decode hd, hx]) (.refl t)

/-! ### Turns of the sequencer from a fixed state -/

/-- The state `s` with the engine `e`, after `n` answers of the digest unit have been drawn. -/
def Machine.State.after (s : State) (n : Nat) (e : Engine) : State := { s.drawn n with eng := e }

@[simp] theorem Machine.State.after_eng (s : State) (n : Nat) (e : Engine) : (s.after n e).eng = e := rfl
@[simp] theorem Machine.State.after_cfg (s : State) (n : Nat) (e : Engine) : (s.after n e).cfg = s.cfg := rfl
@[simp] theorem Machine.State.after_agenda (s : State) (n : Nat) (e : Engine) : (s.after n e).agenda = s.agenda := rfl
@[simp] theorem Machine.State.after_digCount (s : State) (n : Nat) (e : Engine) :
    (s.after n e).digCount = s.digCount + n := rfl

theorem Machine.State.after_zero (s : State) : s.after 0 s.eng = s := rfl

@[simp] theorem Machine.State.after_setEng (s : State) (n : Nat) (e e' : Engine) :
    (s.after n e).setEng e' = s.after n e' := rfl

theorem Machine.State.after_answered (s : State) (n : Nat) (e e' : Engine) :
    (s.after n e).answered e' = s.after (n + 1) e' := by
  simp only [State.after, State.drawn, State.answered, List.tail_drop, Nat.add_assoc]

theorem Machine.State.failsAt_after (s : State) (n k : Nat) (e : Engine) :
    (s.after n e).failsAt k = s.failsAt (n + k) := by
  simp only [State.failsAt, State.after, State.drawn, List.getElem?_drop, Nat.add_assoc]

/-- A turn that issues a digest-port operation, answered ok. -/
theorem BusyRun.port {s : State} {n N : Nat} {e e' : Engine} {i : Instr} (hag : s.agenda = []) (hok : s.okFor N)
    (hn : n < N) (hd : decodeStage5 e.stage = .ok i) (hp : portOutcome i (s.after n e) e') :
    BusyRun 1 (s.after n e) (s.after (n + 1) e') := by
  refine .single hag hd ?_
  rw [← State.after_answered]
  exact hp.1 ((s.failsAt_after n 0 e).trans (hok n hn))

/-- A turn that issues a digest-port operation, before a run that issues `j` more. -/
theorem BusyRun.port_then {s : State} {k n j : Nat} {e e' e'' : Engine}
    (h : BusyRun 1 (s.after n e) (s.after (n + 1) e')) (h' : BusyRun k (s.after (n + 1) e') (s.after (n + 1 + j) e'')) :
    BusyRun (k + 1) (s.after n e) (s.after (n + (j + 1)) e'') := by
  rw [Nat.add_right_comm] at h'
  exact (h.trans h').cast (Nat.add_comm 1 k)

/-- A turn that issues no digest-port operation. -/
theorem BusyRun.quiet {s : State} {n : Nat} {e e' : Engine} {i : Instr} (hag : s.agenda = [])
    (hd : decodeStage5 e.stage = .ok i) (hx : exec i (s.after n e) = .next ((s.after n e).setEng e')) :
    BusyRun 1 (s.after n e) (s.after n e') :=
  .single hag hd hx

end Sys2Proof

/-! ## What each sequencer operation does -/

namespace Sys2Proof

open Machine

/-! ### The digest-port operations with one write of the engine after them -/

section
variable {i : Instr} {s : State}

theorem portOutcome_of_digStart {f : Engine → Engine}
    (hi : exec i s = digStart s fun t => .next (t.setEng (f t.eng))) :
    portOutcome i s (f { s.eng with ctx := { isOpen := true, msg := [] } }) :=
  ⟨fun h => hi.trans (digStart_ok _ h), fun h => hi.trans (digAnswered_fail _ h)⟩

theorem portOutcome_of_digFeed {f : Engine → Engine} {x : List Byte} (ho : s.eng.ctx.isOpen = true)
    (hi : exec i s = digFeed x s fun t => .next (t.setEng (f t.eng))) :
    portOutcome i s (f { s.eng with ctx := { s.eng.ctx with msg := s.eng.ctx.msg ++ x } }) := by
  refine ⟨fun h => ?_, fun h => ?_⟩
  · rw [hi, digFeed_ok _ ho h, ← ho]
    rfl
  · rw [hi, digFeed, if_pos ho, digAnswered_fail _ h]
    rfl

theorem portOutcome_of_digFinal {f : Digest → Engine → Engine} (ho : s.eng.ctx.isOpen = true)
    (hi : exec i s = digFinal s fun d t => .next (t.setEng (f d t.eng))) :
    portOutcome i s (f (sha512 s.eng.ctx.msg) { s.eng with ctx := { isOpen := false, msg := [] } }) := by
  refine ⟨fun h => ?_, fun h => ?_⟩
  · rw [hi, digFinal_ok _ ho h]
    rfl
  · rw [hi, digFinal, if_pos ho, digAnswered_fail _ h]
    rfl

end

/-! ### The ranges that are fed (20_memory.md R64) -/

section
variable {s : State} (k : State → Out)

theorem feed_range_eq {sp : Space} {n : Nat} (h : n ≤ spaceSize s.cfg sp) :
    (memRead sp 0 n s fun x => digFeed x s k) = digFeed (s.eng.bytes sp 0 n) s k :=
  memRead_of_le _ (by rwa [Nat.zero_add])

theorem feedPw_eq (h : s.inputsFit) : feedPw s k = digFeed s.eng.password s k := feed_range_eq (sp := .pw) k h.1

theorem feedSalt_eq (h : s.inputsFit) : feedSalt s k = digFeed s.eng.saltBytes s k := feed_range_eq (sp := .salt) k h.2

theorem feedP_eq (h : s.inputsFit) : feedP s k = digFeed s.eng.pBytes s k := feed_range_eq (sp := .p) k h.1

theorem feedS_eq (h : s.inputsFit) : feedS s k = digFeed s.eng.sBytes s k := feed_range_eq (sp := .s) k h.2

theorem feedAlt_eq {n : Nat} (h : n ≤ 64) : feedAlt n s k = digFeed (s.eng.alt.toList.take n) s k := by
  rw [← Engine.bytes_alt _ h]
  exact feed_range_eq (sp := .alt) k h

theorem feedResult_eq : feedResult s k = digFeed s.eng.result.toList s k := by
  rw [← Engine.bytes_result]
  exact feed_range_eq (sp := .result) k (Nat.le_refl 64)

end

theorem Machine.digest_getD_zero (d : Digest) : d.toList.getD 0 0#8 = d[0] := by simp [List.getD_eq_getElem?_getD]

theorem Machine.Engine.byteAt_result_zero (e : Engine) : e.byteAt .result 0 = e.result[0] := digest_getD_zero e.result

theorem getLsbD_zero_eq_odd {w : Nat} (x : BitVec w) : x.getLsbD 0 = decide (x.toNat % 2 = 1) := by
  rw [BitVec.getLsbD, Nat.testBit_zero]

/-! ### The operations that start a context -/

section
variable (s : State)

theorem portOutcome_aInit :
    portOutcome .aInit s { s.eng with ctx := { isOpen := true, msg := [] }, stage := 2#5 } :=
  portOutcome_of_digStart (f := fun e => { e with stage := 2#5 }) rfl

theorem portOutcome_mInit :
    portOutcome .mInit s { s.eng with ctx := { isOpen := true, msg := [] }, stage := 7#5 } :=
  portOutcome_of_digStart (f := fun e => { e with stage := 7#5 }) rfl

theorem portOutcome_rInit :
    portOutcome .rInit s { s.eng with ctx := { isOpen := true, msg := [] }, stage := 21#5 } :=
  portOutcome_of_digStart (f := fun e => { e with stage := 21#5 }) rfl

theorem portOutcome_pInit :
    portOutcome .pInit s { s.eng with ctx := { isOpen := true, msg := [] }, cnt := s.eng.pwLen, stage := 13#5 } :=
  portOutcome_of_digStart (f := fun e => { e with cnt := e.pwLen, stage := 13#5 }) rfl

theorem portOutcome_sInit :
    portOutcome .sInit s
      { s.eng with
        ctx := { isOpen := true, msg := [] }, cnt := 16 + (s.eng.byteAt .result 0).toNat, stage := 17#5 } := by
  rw [Engine.byteAt_result_zero]
  exact portOutcome_of_digStart (f := fun e => { e with cnt := 16 + e.result[0].toNat, stage := 17#5 }) rfl

end

/-! ### The operations that feed the open context -/

section
variable {s : State} (ho : s.eng.ctx.isOpen = true) (hfit : s.inputsFit)
include ho

section
include hfit

theorem portOutcome_aPw1 :
    portOutcome .aPw1 s
      { s.eng with ctx := { s.eng.ctx with msg := s.eng.ctx.msg ++ s.eng.password }, stage := 3#5 } :=
  portOutcome_of_digFeed (f := fun e => { e with stage := 3#5 }) ho (feedPw_eq _ hfit)

theorem portOutcome_aPw2 :
    portOutcome .aPw2 s
      { s.eng with ctx := { s.eng.ctx with msg := s.eng.ctx.msg ++ s.eng.password }, stage := 5#5 } :=
  portOutcome_of_digFeed (f := fun e => { e with stage := 5#5 }) ho (feedPw_eq _ hfit)

theorem portOutcome_mPw :
    portOutcome .mPw s
      { s.eng with ctx := { s.eng.ctx with msg := s.eng.ctx.msg ++ s.eng.password }, stage := 8#5 } :=
  portOutcome_of_digFeed (f := fun e => { e with stage := 8#5 }) ho (feedPw_eq _ hfit)

theorem portOutcome_aSalt :
    portOutcome .aSalt s
      { s.eng with ctx := { s.eng.ctx with msg := s.eng.ctx.msg ++ s.eng.saltBytes }, stage := 4#5 } :=
  portOutcome_of_digFeed (f := fun e => { e with stage := 4#5 }) ho (feedSalt_eq _ hfit)

theorem portOutcome_mSalt :
    portOutcome .mSalt s
      { s.eng with
        ctx := { s.eng.ctx with msg := s.eng.ctx.msg ++ s.eng.saltBytes }, cnt := s.eng.pwLen, stage := 9#5 } :=
  portOutcome_of_digFeed (f := fun e => { e with cnt := e.pwLen, stage := 9#5 }) ho (feedSalt_eq _ hfit)

theorem portOutcome_mBits (hl : s.eng.lsh ≠ 0) :
    portOutcome .mBits s
      { s.eng with
        ctx := { s.eng.ctx with
          msg := s.eng.ctx.msg ++ if s.eng.lsh % 2 = 1 then s.eng.alt.toList else s.eng.password }
        lsh := s.eng.lsh / 2
        stage := 10#5 } := by
  refine portOutcome_of_digFeed (f := fun e => { e with lsh := e.lsh / 2, stage := 10#5 }) ho ?_
  change execMBits s = _
  rw [execMBits, if_pos hl, Nat.testBit_zero]
  by_cases hodd : s.eng.lsh % 2 = 1
  · simp only [hodd, decide_true, if_true]
    rw [feedAlt_eq _ (Nat.le_refl 64), List.take_of_length_le (by simp)]
    rfl
  · simp only [hodd, decide_false, Bool.false_eq_true, if_false]
    exact feedPw_eq _ hfit

theorem portOutcome_pRep (hc : 0 < s.eng.cnt) :
    portOutcome .pRep s
      { s.eng with
        ctx := { s.eng.ctx with msg := s.eng.ctx.msg ++ s.eng.password }, cnt := s.eng.cnt - 1, stage := 13#5 } :=
  portOutcome_of_digFeed (f := fun e => { e with cnt := e.cnt - 1, stage := 13#5 }) ho
    ((if_pos hc).trans (feedPw_eq _ hfit))

theorem portOutcome_sRep (hc : 0 < s.eng.cnt) :
    portOutcome .sRep s
      { s.eng with
        ctx := { s.eng.ctx with msg := s.eng.ctx.msg ++ s.eng.saltBytes }, cnt := s.eng.cnt - 1, stage := 17#5 } :=
  portOutcome_of_digFeed (f := fun e => { e with cnt := e.cnt - 1, stage := 17#5 }) ho
    ((if_pos hc).trans (feedSalt_eq _ hfit))

theorem portOutcome_rF1 :
    portOutcome .rF1 s
      { s.eng with
        ctx := { s.eng.ctx with
          msg := s.eng.ctx.msg ++ if s.eng.r.toNat % 2 = 1 then s.eng.pBytes else s.eng.result.toList }
        stage := 22#5 } := by
  refine portOutcome_of_digFeed (f := fun e => { e with stage := 22#5 }) ho ?_
  change execRF1 s = _
  rw [execRF1, getLsbD_zero_eq_odd]
  by_cases hodd : s.eng.r.toNat % 2 = 1
  · simp only [hodd, decide_true, if_true]
    exact feedP_eq _ hfit
  · simp only [hodd, decide_false, Bool.false_eq_true, if_false]
    exact feedResult_eq _

theorem portOutcome_rF2 (hr : s.eng.r.toNat % 3 ≠ 0) :
    portOutcome .rF2 s
      { s.eng with ctx := { s.eng.ctx with msg := s.eng.ctx.msg ++ s.eng.sBytes }, stage := 23#5 } :=
  portOutcome_of_digFeed (f := fun e => { e with stage := 23#5 }) ho ((if_pos hr).trans (feedS_eq _ hfit))

theorem portOutcome_rF3 (hr : s.eng.r.toNat % 7 ≠ 0) :
    portOutcome .rF3 s
      { s.eng with ctx := { s.eng.ctx with msg := s.eng.ctx.msg ++ s.eng.pBytes }, stage := 24#5 } :=
  portOutcome_of_digFeed (f := fun e => { e with stage := 24#5 }) ho ((if_pos hr).trans (feedP_eq _ hfit))

theorem portOutcome_rF4 :
    portOutcome .rF4 s
      { s.eng with
        ctx := { s.eng.ctx with
          msg := s.eng.ctx.msg ++ if s.eng.r.toNat % 2 = 1 then s.eng.result.toList else s.eng.pBytes }
        stage := 25#5 } := by
  refine portOutcome_of_digFeed (f := fun e => { e with stage := 25#5 }) ho ?_
  change execRF4 s = _
  rw [execRF4, getLsbD_zero_eq_odd]
  by_cases hodd : s.eng.r.toNat % 2 = 1
  · simp only [hodd, decide_true, if_true]
    exact feedResult_eq _
  · simp only [hodd, decide_false, Bool.false_eq_true, if_false]
    exact feedP_eq _ hfit

end

theorem portOutcome_mCover (hc : 0 < s.eng.cnt) :
    portOutcome .mCover s
      { s.eng with
        ctx := { s.eng.ctx with msg := s.eng.ctx.msg ++ s.eng.alt.toList.take (min s.eng.cnt 64) }
        cnt := s.eng.cnt - min s.eng.cnt 64
        stage := 9#5 } :=
  portOutcome_of_digFeed (f := fun e => { e with cnt := e.cnt - min s.eng.cnt 64, stage := 9#5 }) ho
    ((if_pos hc).trans (feedAlt_eq _ (Nat.min_le_right _ 64)))

/-! ### The operations that take a digest -/

theorem portOutcome_aFin :
    portOutcome .aFin s
      { s.eng with ctx := { isOpen := false, msg := [] }, alt := sha512 s.eng.ctx.msg, stage := 6#5 } :=
  portOutcome_of_digFinal (f := fun d e => { e with alt := d, stage := 6#5 }) ho rfl

theorem portOutcome_mFin :
    portOutcome .mFin s
      { s.eng with ctx := { isOpen := false, msg := [] }, result := sha512 s.eng.ctx.msg, stage := 12#5 } :=
  portOutcome_of_digFinal (f := fun d e => { e with result := d, stage := 12#5 }) ho rfl

theorem portOutcome_pFin :
    portOutcome .pFin s
      { s.eng with ctx := { isOpen := false, msg := [] }, dp := sha512 s.eng.ctx.msg, stage := 15#5 } :=
  portOutcome_of_digFinal (f := fun d e => { e with dp := d, stage := 15#5 }) ho rfl

theorem portOutcome_sFin :
    portOutcome .sFin s
      { s.eng with ctx := { isOpen := false, msg := [] }, ds := sha512 s.eng.ctx.msg, stage := 19#5 } :=
  portOutcome_of_digFinal (f := fun d e => { e with ds := d, stage := 19#5 }) ho rfl

theorem portOutcome_rFin_next (hr : s.eng.r.toNat < 4999) :
    portOutcome .rFin s
      { s.eng with
        ctx := { isOpen := false, msg := [] }, result := sha512 s.eng.ctx.msg
        r := s.eng.r + 1#13, stage := 20#5 } := by
  refine portOutcome_of_digFinal (f := fun d e => { e with result := d, r := s.eng.r + 1#13, stage := 20#5 }) ho ?_
  change execRFin s = _
  simp only [execRFin, Config.rounds, Nat.reduceSub, hr, if_true]

theorem portOutcome_rFin_last (hr : 4999 ≤ s.eng.r.toNat) :
    portOutcome .rFin s
      { s.eng with ctx := { isOpen := false, msg := [] }, result := sha512 s.eng.ctx.msg, stage := 26#5 } := by
  refine portOutcome_of_digFinal (f := fun d e => { e with result := d, stage := 26#5 }) ho ?_
  change execRFin s = _
  simp only [execRFin, Config.rounds, Nat.reduceSub, Nat.not_lt.2 hr, if_false]

end

/-! ### The turns that issue no digest-port operation -/

section
variable {s : State}

theorem exec_mCover_exit (hc : s.eng.cnt = 0) :
    exec .mCover s = .next (s.setEng { s.eng with lsh := s.eng.pwLen, stage := 10#5 }) :=
  if_neg (Nat.not_lt.2 (Nat.le_of_eq hc))

theorem exec_mBits_exit (hl : s.eng.lsh = 0) : exec .mBits s = .next (s.setEng { s.eng with stage := 11#5 }) :=
  if_neg (not_not.2 hl)

theorem exec_pRep_exit (hc : s.eng.cnt = 0) : exec .pRep s = .next (s.setEng { s.eng with stage := 14#5 }) :=
  if_neg (Nat.not_lt.2 (Nat.le_of_eq hc))

theorem exec_sRep_exit (hc : s.eng.cnt = 0) : exec .sRep s = .next (s.setEng { s.eng with stage := 18#5 }) :=
  if_neg (Nat.not_lt.2 (Nat.le_of_eq hc))

theorem exec_rF2_skip (hr : s.eng.r.toNat % 3 = 0) : exec .rF2 s = .next (s.setEng { s.eng with stage := 23#5 }) :=
  if_neg (not_not.2 hr)

theorem exec_rF3_skip (hr : s.eng.r.toNat % 7 = 0) : exec .rF3 s = .next (s.setEng { s.eng with stage := 24#5 }) :=
  if_neg (not_not.2 hr)

theorem exec_pFill (hfit : s.inputsFit) :
    exec .pFill s =
      .next (s.setEng
        { s.eng with pBuf := s.eng.pBuf.writeRange 0 (stretch s.eng.dp s.eng.pwLen), stage := 16#5 }) := by
  have hlen : 0 + (stretch s.eng.dp s.eng.pwLen).length ≤ spaceSize s.cfg .p := by
    rw [Nat.zero_add, stretch_length]
    exact hfit.1
  change execPFill s = _
  rw [execPFill, memWrite_of_le _ hlen]
  rfl

theorem exec_sFill (hfit : s.inputsFit) :
    exec .sFill s =
      .next (s.setEng
        { s.eng with
          sBuf := s.eng.sBuf.writeRange 0 (s.eng.ds.toList.take s.eng.saltLen.toNat), r := 0#13, stage := 20#5 }) := by
  have hsalt : s.eng.saltLen.toNat ≤ 16 := hfit.2
  have hread : 0 + s.eng.saltLen.toNat ≤ spaceSize s.cfg .ds := by
    simp only [spaceSize]
    omega
  have hlen : 0 + (s.eng.bytes .ds 0 s.eng.saltLen.toNat).length ≤ spaceSize s.cfg .s := by
    rwa [Nat.zero_add, Engine.bytes_length]
  change execSFill s = _
  rw [execSFill, memRead_of_le _ hread, memWrite_of_le _ hlen, ← Engine.bytes_ds _ (by omega)]
  rfl

/-- Two writes one behind the other are one write. -/
theorem Machine.Memory.writeRange_append (m : Memory) (off : Nat) (v w : List Byte) :
    m.writeRange off (v ++ w) = (m.writeRange off v).writeRange (off + v.length) w := by
  induction v generalizing m off with
  | nil => rfl
  | cons b v ih =>
    rw [List.cons_append, Memory.writeRange, ih, List.length_cons, Nat.add_right_comm, Nat.add_assoc]
    rfl

theorem exec_ePrefix (hfit : s.inputsFit) :
    exec .ePrefix s =
      .next (s.setEng
        { s.eng with
          out := s.eng.out.writeRange 0 (tagChars ++ s.eng.saltBytes ++ [dollar])
          outLen := BitVec.ofNat 7 (4 + s.eng.saltLen.toNat)
          outPtr := 0#7
          g := 0#5
          stage := 27#5 }) := by
  have hsalt : s.eng.saltLen.toNat ≤ 16 := hfit.2
  have hlen : s.eng.saltBytes.length = s.eng.saltLen.toNat := Engine.bytes_length _ _ _ _
  change execEPrefix s = _
  rw [execEPrefix, readSalt, memRead_of_le _ (by simpa [spaceSize] using hsalt),
    memWrite_of_le _ (by simp [spaceSize, tagChars]),
    memWrite_of_le _ (by simp [spaceSize]; omega),
    memWrite_of_le _ (by simp [spaceSize]; omega)]
  simp only [State.setEng_eng, Engine.store]
  rw [Memory.writeRange_append, Memory.writeRange_append, List.length_append, hlen, Nat.zero_add, Nat.zero_add,
    BitVec.ofNat_add, BitVec.ofNat_toNat]
  rfl

theorem exec_eGroup (hg : s.eng.g.toNat < 21) (hlen : s.eng.outLen.toNat ≤ 102) :
    exec .eGroup s =
      .next (s.setEng
        { s.eng with
          out := s.eng.out.writeRange s.eng.outLen.toNat
            (enc (tripleValue s.eng.result (perm s.eng.g.toNat)) 4)
          outLen := s.eng.outLen + 4#7
          g := s.eng.g + 1#5
          stage := 27#5 }) :=
  (if_pos hg).trans (memWrite_of_le (sp := .out) _ (by simp only [enc_length, spaceSize, Config.outMax]; omega))

theorem exec_eGroup_exit (hg : 21 ≤ s.eng.g.toNat) : exec .eGroup s = .next (s.setEng { s.eng with stage := 28#5 }) :=
  if_neg (Nat.not_lt.2 hg)

theorem exec_eLast (hlen : s.eng.outLen.toNat ≤ 104) :
    exec .eLast s =
      .next (s.setEng
        { Engine.reset with
          stage := 29#5
          out := s.eng.out.writeRange s.eng.outLen.toNat (enc (lastValue s.eng.result) 2)
          outLen := s.eng.outLen + 2#7
          outPtr := s.eng.outPtr
          cmdErr := s.eng.cmdErr
          rejCode := s.eng.rejCode
          errCode := s.eng.errCode }) := by
  have hroom : s.eng.outLen.toNat + (enc (lastValue s.eng.result) 2).length ≤ spaceSize s.cfg .out := by
    simp only [enc_length, spaceSize, Config.outMax]
    omega
  change execELast s = _
  rw [execELast, memWrite_of_le _ hroom]
  rfl

end

end Sys2Proof

/-! ## The function layer as recursions over the counters of the loops -/

namespace Sys2Proof

open Machine

namespace Machine

/-- The cut-off of the recursion of `Cover` plays no part once it is large enough. -/
theorem coverFuel_congr (alt : Digest) {f g i : Nat} (hf : i ≤ f) (hg : i ≤ g) :
    coverFuel alt f i = coverFuel alt g i := by
  induction f generalizing g i with
  | zero =>
    obtain rfl : i = 0 := by omega
    cases g <;> simp [coverFuel]
  | succ f ih =>
    cases g with
    | zero =>
      obtain rfl : i = 0 := by omega
      simp [coverFuel]
    | succ g =>
      simp only [coverFuel, Config.chunk]
      split
      · rfl
      · split
        · rfl
        · rw [ih (g := g) (by omega) (by omega)]

@[simp] theorem cover_zero (alt : Digest) : cover alt 0 = [] := rfl

/-- One chunk of `Cover` (42_main_sum.md R130, R134). -/
theorem cover_of_pos (alt : Digest) {c : Nat} (hc : 0 < c) :
    cover alt c = alt.toList.take (min c 64) ++ cover alt (c - min c 64) := by
  obtain ⟨f, rfl⟩ := Nat.exists_eq_succ_of_ne_zero (Nat.pos_iff_ne_zero.1 hc)
  rw [cover, coverFuel, if_neg (Nat.succ_ne_zero f)]
  by_cases hle : f + 1 ≤ 64
  · rw [if_pos hle, Nat.min_eq_left hle, Nat.sub_self, cover_zero, List.append_nil]
  · rw [if_neg hle, Nat.min_eq_right (by omega), List.take_of_length_le (by simp), cover,
      coverFuel_congr alt (g := f + 1 - 64) (by simp only [Config.chunk]; omega) (by simp)]

theorem coverChunks_of_pos {c : Nat} (hc : 0 < c) : coverChunks c = coverChunks (c - min c 64) + 1 := by
  simp only [coverChunks]
  omega

/-- The cut-off of the recursion of `Bits` plays no part once it is large enough. -/
theorem bitsFuel_congr (alt : Digest) (pw : List Byte) {f g v : Nat} (hf : v ≤ f) (hg : v ≤ g) :
    bitsFuel alt pw f v = bitsFuel alt pw g v := by
  induction f generalizing g v with
  | zero =>
    obtain rfl : v = 0 := by omega
    cases g <;> simp [bitsFuel]
  | succ f ih =>
    cases g with
    | zero =>
      obtain rfl : v = 0 := by omega
      simp [bitsFuel]
    | succ g =>
      simp only [bitsFuel, Nat.shiftRight_one]
      split
      · rfl
      · rw [ih (g := g) (by omega) (by omega)]

@[simp] theorem bits_zero (alt : Digest) (pw : List Byte) : bits alt pw 0 = [] := rfl

/-- One bit of `Bits` (R130, R135). -/
theorem bits_of_ne_zero (alt : Digest) (pw : List Byte) {v : Nat} (hv : v ≠ 0) :
    bits alt pw v = (if v % 2 = 1 then alt.toList else pw) ++ bits alt pw (v / 2) := by
  obtain ⟨f, rfl⟩ := Nat.exists_eq_succ_of_ne_zero hv
  rw [bits, bitsFuel, if_neg hv, Nat.testBit_zero, Nat.shiftRight_one, bits,
    bitsFuel_congr alt pw (g := (f + 1) / 2) (by omega) (Nat.le_refl _)]
  simp only [decide_eq_true_eq]

theorem bitlen_of_ne_zero {v : Nat} (hv : v ≠ 0) : bitlen v = bitlen (v / 2) + 1 := by
  rw [bitlen, if_neg hv, Nat.log2_def, bitlen]
  split_ifs <;> omega

@[simp] theorem rep_zero (x : List Byte) : rep x 0 = [] := rfl

theorem rep_succ (x : List Byte) (n : Nat) : rep x (n + 1) = x ++ rep x n := by
  rw [rep, List.replicate_succ, List.flatten_cons, rep]

theorem roundDigest_succ (res0 : Digest) (p q : List Byte) (r : Nat) :
    roundDigest res0 p q (r + 1) = sha512 (roundMsg r (roundDigest res0 p q r) p q) := rfl

/-- The feeds of round `r`: two, one more unless 3 divides `r` and one more unless 7 does (44_round_mixing.md R157 to
R160). -/
def roundFeeds (r : Nat) : Nat := 1 + (if r % 3 ≠ 0 then 1 else 0) + (if r % 7 ≠ 0 then 1 else 0) + 1

/-- The digest-port operations of the first `r` rounds (R163). -/
def roundOps (r : Nat) : Nat := 4 * r + (r - (r + 2) / 3) + (r - (r + 6) / 7)

/-- A round starts a context, feeds it and takes its digest (R156, R161). -/
theorem roundOps_succ (r : Nat) : roundOps (r + 1) = roundOps r + (1 + roundFeeds r) + 1 := by
  have h3 : r + 1 - (r + 1 + 2) / 3 = r - (r + 2) / 3 + if r % 3 ≠ 0 then 1 else 0 := by split_ifs <;> omega
  have h7 : r + 1 - (r + 1 + 6) / 7 = r - (r + 6) / 7 + if r % 7 ≠ 0 then 1 else 0 := by split_ifs <;> omega
  rw [roundOps, h3, h7, roundOps, roundFeeds]
  omega

/-- The characters of the first `n` groups of an encoded digest (30_encoding.md R97). -/
def groupChars (d : Digest) (n : Nat) : List Byte :=
  ((List.range n).map fun g => enc (tripleValue d (perm g)) 4).flatten

theorem groupChars_succ (d : Digest) (n : Nat) :
    groupChars d (n + 1) = groupChars d n ++ enc (tripleValue d (perm n)) 4 := by
  simp [groupChars, List.range_succ]

@[simp] theorem groupChars_length (d : Digest) (n : Nat) : (groupChars d n).length = 4 * n := by
  induction n with
  | zero => rfl
  | succ n ih => rw [groupChars_succ, List.length_append, ih, enc_length, Nat.mul_succ]

theorem encodeDigest_eq (d : Digest) : encodeDigest d = groupChars d 21 ++ enc (lastValue d) 2 := rfl

theorem output_length (salt : List Byte) (d : Digest) : (output salt d).length = 90 + salt.length := by
  simp only [output, encodeDigest_eq, tagChars, List.length_append, groupChars_length, enc_length, List.length_cons,
    List.length_nil]
  omega

/-- What was written from offset 0 on is read back. -/
theorem Memory.read_back {m : Memory} (h : m.wf) (v : List Byte) :
    ((List.range v.length).map fun j => (m.writeRange 0 v).read (0 + j)) = v := by
  apply List.ext_getElem
  · simp
  · intro j _ hj
    simp [Memory.read_writeRange h, hj]

end Machine

end Sys2Proof

/-! ## The engine after each of the five stages -/

namespace Sys2Proof

open Machine

namespace Machine

/-- The engine standing at a `STAGE` code with an open context that holds `m`. -/
abbrev Engine.atOpen (e : Engine) (c : BitVec 5) (m : List Byte) : Engine :=
  { e with stage := c, ctx := { isOpen := true, msg := m } }

/-- The engine standing at a `STAGE` code with the context closed. -/
abbrev Engine.atClosed (e : Engine) (c : BitVec 5) : Engine :=
  { e with stage := c, ctx := { isOpen := false, msg := [] } }

/-- After the alternate-sum stage (41_alternate_sum.md R126). -/
def Engine.afterAlternateSum (e : Engine) : Engine := { e.atClosed 6#5 with alt := altSum e.password e.saltBytes }

/-- After the main-sum stage (42_main_sum.md R137). -/
def Engine.afterMainSum (e : Engine) : Engine :=
  { e.atClosed 12#5 with result := mainSum e.password e.saltBytes e.alt, cnt := 0, lsh := 0 }

/-- After the P part of the sequence-construction stage (43_sequence_construction.md R150). -/
def Engine.afterPSeq (e : Engine) : Engine :=
  { e.atClosed 16#5 with dp := dpOf e.password, pBuf := e.pBuf.writeRange 0 (pSeq e.password), cnt := 0 }

/-- After the S part of the sequence-construction stage (R150). -/
def Engine.afterSSeq (e : Engine) : Engine :=
  { e.atClosed 20#5 with
    ds := dsOf e.saltBytes (e.byteAt .result 0)
    sBuf := e.sBuf.writeRange 0 (sSeq e.saltBytes (e.byteAt .result 0))
    r := 0#13
    cnt := 0 }

/-- After the round-mixing stage (44_round_mixing.md R163). -/
def Engine.afterRounds (e : Engine) : Engine :=
  { e.atClosed 26#5 with r := 4999#13, result := rounds e.result e.pBytes e.sBytes }

/-- After the encoding stage (45_encoding_stage.md R176). -/
def Engine.afterEncoding (e : Engine) : Engine :=
  { Engine.reset with
    stage := 29#5
    out := e.out.writeRange 0 (output e.saltBytes e.result)
    outLen := BitVec.ofNat 7 (90 + e.saltLen.toNat)
    cmdErr := e.cmdErr
    rejCode := e.rejCode
    errCode := e.errCode }

/-- After a whole run, from `STAGE = 1` on (00_scope.md R2). -/
def Engine.afterRun (e : Engine) : Engine :=
  e.afterAlternateSum.afterMainSum.afterPSeq.afterSSeq.afterRounds.afterEncoding

@[simp] theorem Engine.password_length (e : Engine) : e.password.length = e.pwLen := e.bytes_length _ _ _

@[simp] theorem Engine.saltBytes_length (e : Engine) : e.saltBytes.length = e.saltLen.toNat := e.bytes_length _ _ _

/-! ### The registers that a later stage reads -/

section
variable (e : Engine)

@[simp] theorem Engine.afterAlternateSum_stage : e.afterAlternateSum.stage = 6#5 := rfl
@[simp] theorem Engine.afterAlternateSum_alt : e.afterAlternateSum.alt = altSum e.password e.saltBytes := rfl
@[simp] theorem Engine.afterMainSum_stage : e.afterMainSum.stage = 12#5 := rfl
@[simp] theorem Engine.afterMainSum_result : e.afterMainSum.result = mainSum e.password e.saltBytes e.alt := rfl
@[simp] theorem Engine.afterPSeq_stage : e.afterPSeq.stage = 16#5 := rfl
@[simp] theorem Engine.afterSSeq_stage : e.afterSSeq.stage = 20#5 := rfl
@[simp] theorem Engine.afterSSeq_r : e.afterSSeq.r = 0#13 := rfl
@[simp] theorem Engine.afterRounds_stage : e.afterRounds.stage = 26#5 := rfl
@[simp] theorem Engine.afterRounds_result : e.afterRounds.result = rounds e.result e.pBytes e.sBytes := rfl

-- What a stage leaves alone.
@[simp] theorem Engine.afterAlternateSum_pwLen : e.afterAlternateSum.pwLen = e.pwLen := by rw [afterAlternateSum]
@[simp] theorem Engine.afterAlternateSum_saltLen : e.afterAlternateSum.saltLen = e.saltLen := by rw [afterAlternateSum]
@[simp] theorem Engine.afterAlternateSum_pBuf : e.afterAlternateSum.pBuf = e.pBuf := by rw [afterAlternateSum]
@[simp] theorem Engine.afterAlternateSum_sBuf : e.afterAlternateSum.sBuf = e.sBuf := by rw [afterAlternateSum]
@[simp] theorem Engine.afterAlternateSum_out : e.afterAlternateSum.out = e.out := by rw [afterAlternateSum]
@[simp] theorem Engine.afterAlternateSum_password : e.afterAlternateSum.password = e.password := by
  simp only [password, bytes, byteAt, afterAlternateSum]
@[simp] theorem Engine.afterAlternateSum_saltBytes : e.afterAlternateSum.saltBytes = e.saltBytes := by
  simp only [saltBytes, bytes, byteAt, afterAlternateSum]

@[simp] theorem Engine.afterMainSum_pwLen : e.afterMainSum.pwLen = e.pwLen := by rw [afterMainSum]
@[simp] theorem Engine.afterMainSum_saltLen : e.afterMainSum.saltLen = e.saltLen := by rw [afterMainSum]
@[simp] theorem Engine.afterMainSum_pBuf : e.afterMainSum.pBuf = e.pBuf := by rw [afterMainSum]
@[simp] theorem Engine.afterMainSum_sBuf : e.afterMainSum.sBuf = e.sBuf := by rw [afterMainSum]
@[simp] theorem Engine.afterMainSum_out : e.afterMainSum.out = e.out := by rw [afterMainSum]
@[simp] theorem Engine.afterMainSum_password : e.afterMainSum.password = e.password := by
  simp only [password, bytes, byteAt, afterMainSum]
@[simp] theorem Engine.afterMainSum_saltBytes : e.afterMainSum.saltBytes = e.saltBytes := by
  simp only [saltBytes, bytes, byteAt, afterMainSum]

@[simp] theorem Engine.afterPSeq_pwLen : e.afterPSeq.pwLen = e.pwLen := by rw [afterPSeq]
@[simp] theorem Engine.afterPSeq_saltLen : e.afterPSeq.saltLen = e.saltLen := by rw [afterPSeq]
@[simp] theorem Engine.afterPSeq_result : e.afterPSeq.result = e.result := by rw [afterPSeq]
@[simp] theorem Engine.afterPSeq_sBuf : e.afterPSeq.sBuf = e.sBuf := by rw [afterPSeq]
@[simp] theorem Engine.afterPSeq_out : e.afterPSeq.out = e.out := by rw [afterPSeq]
@[simp] theorem Engine.afterPSeq_saltBytes : e.afterPSeq.saltBytes = e.saltBytes := by
  simp only [saltBytes, bytes, byteAt, afterPSeq]

@[simp] theorem Engine.afterSSeq_pwLen : e.afterSSeq.pwLen = e.pwLen := by rw [afterSSeq]
@[simp] theorem Engine.afterSSeq_saltLen : e.afterSSeq.saltLen = e.saltLen := by rw [afterSSeq]
@[simp] theorem Engine.afterSSeq_result : e.afterSSeq.result = e.result := by rw [afterSSeq]
@[simp] theorem Engine.afterSSeq_pBuf : e.afterSSeq.pBuf = e.pBuf := by rw [afterSSeq]
@[simp] theorem Engine.afterSSeq_out : e.afterSSeq.out = e.out := by rw [afterSSeq]
@[simp] theorem Engine.afterSSeq_saltBytes : e.afterSSeq.saltBytes = e.saltBytes := by
  simp only [saltBytes, bytes, byteAt, afterSSeq]
@[simp] theorem Engine.afterSSeq_pBytes : e.afterSSeq.pBytes = e.pBytes := by
  simp only [pBytes, bytes, byteAt, afterSSeq]

@[simp] theorem Engine.afterRounds_pwLen : e.afterRounds.pwLen = e.pwLen := by rw [afterRounds]
@[simp] theorem Engine.afterRounds_saltLen : e.afterRounds.saltLen = e.saltLen := by rw [afterRounds]
@[simp] theorem Engine.afterRounds_out : e.afterRounds.out = e.out := by rw [afterRounds]
@[simp] theorem Engine.afterRounds_saltBytes : e.afterRounds.saltBytes = e.saltBytes := by
  simp only [saltBytes, bytes, byteAt, afterRounds]

end

/-- The output is read back from `OUT` (10_state.md R32). -/
theorem Engine.afterEncoding_outBytes {e : Engine} (hout : e.out.wf) (hsalt : e.saltLen.toNat ≤ 16) :
    e.afterEncoding.outBytes = output e.saltBytes e.result := by
  have hlen : e.afterEncoding.outLen.toNat = (output e.saltBytes e.result).length := by
    rw [output_length, Engine.saltBytes_length, Engine.afterEncoding, BitVec.toNat_ofNat]
    omega
  rw [Engine.outBytes, hlen]
  exact Memory.read_back hout _

/-- The P-sequence is read back from `P` (R31). -/
theorem Engine.afterPSeq_pBytes {e : Engine} (hp : e.pBuf.wf) : e.afterPSeq.pBytes = pSeq e.password := by
  have hlen : e.afterPSeq.pwLen = (pSeq e.password).length := by
    rw [pSeq, stretch_length, Engine.password_length, afterPSeq_pwLen]
  rw [Engine.pBytes, hlen]
  exact Memory.read_back hp _

/-- The S-sequence is read back from `S` (R31). -/
theorem Engine.afterSSeq_sBytes {e : Engine} (hs : e.sBuf.wf) (hsalt : e.saltLen.toNat ≤ 16) :
    e.afterSSeq.sBytes = sSeq e.saltBytes (e.byteAt .result 0) := by
  have hlen : e.afterSSeq.saltLen.toNat = (sSeq e.saltBytes (e.byteAt .result 0)).length := by
    rw [sSeq, List.length_take, Vector.length_toList, Engine.saltBytes_length, Nat.min_eq_left (by omega),
      afterSSeq_saltLen]
  rw [Engine.sBytes, hlen]
  exact Memory.read_back hs _

/-- The working digest after the main sum is the `RES0` of R2. -/
theorem Engine.mainDigest_of_stages (e : Engine) :
    e.afterAlternateSum.afterMainSum.result = mainDigest e.password e.saltBytes := by
  rw [afterMainSum_result, afterAlternateSum_password, afterAlternateSum_saltBytes, afterAlternateSum_alt, mainDigest]

/-- The working digest of the engine at the encoding stage is the `RES` of R2. -/
theorem Engine.finalDigest_of_stages {e : Engine} (hp : e.pBuf.wf) (hs : e.sBuf.wf) (hsalt : e.saltLen.toNat ≤ 16) :
    e.afterAlternateSum.afterMainSum.afterPSeq.afterSSeq.afterRounds.result = finalDigest e.password e.saltBytes := by
  rw [afterRounds_result, afterSSeq_pBytes, afterPSeq_pBytes (by simpa using hp),
    afterSSeq_sBytes (by simpa using hs) (by simpa using hsalt), afterSSeq_result, byteAt_result_zero, afterPSeq_result,
    mainDigest_of_stages, finalDigest]
  simp

/-- What stands in `OUT` after a run is `Crypt6` of the inputs it began with (R2, R3). -/
theorem Engine.afterRun_outBytes {e : Engine} (hp : e.pBuf.wf) (hs : e.sBuf.wf) (hout : e.out.wf)
    (hsalt : e.saltLen.toNat ≤ 16) : e.afterRun.outBytes = crypt6 e.password e.saltBytes := by
  have htrunc : truncSalt e.saltBytes = e.saltBytes := List.take_of_length_le (by simpa using hsalt)
  rw [afterRun, afterEncoding_outBytes (by simpa using hout) (by simpa using hsalt),
    finalDigest_of_stages hp hs hsalt, crypt6, htrunc]
  simp

/-! ### The output while it is written -/

/-- The engine with the head of the output and the characters of `n` groups written (45_encoding_stage.md R171,
R172). -/
def Engine.withGroups (e : Engine) (n : Nat) : Engine :=
  { e with
    stage := 27#5
    out := e.out.writeRange 0 (tagChars ++ e.saltBytes ++ [dollar] ++ groupChars e.result n)
    outLen := BitVec.ofNat 7 (4 + e.saltLen.toNat + 4 * n)
    outPtr := 0#7
    g := BitVec.ofNat 5 n }

theorem Engine.withGroups_outLen {e : Engine} {n : Nat} (hsalt : e.saltLen.toNat ≤ 16) (hn : n ≤ 21) :
    (e.withGroups n).outLen.toNat = 4 + e.saltLen.toNat + 4 * n := by
  rw [Engine.withGroups, BitVec.toNat_ofNat]
  omega

theorem Engine.withGroups_g {e : Engine} {n : Nat} (hn : n ≤ 21) : (e.withGroups n).g.toNat = n := by
  rw [Engine.withGroups, BitVec.toNat_ofNat]
  omega

/-- What is written behind the groups stands behind them in `OUT`. -/
theorem Engine.withGroups_write {e : Engine} {n : Nat} (hsalt : e.saltLen.toNat ≤ 16) (hn : n ≤ 21)
    (v : List Byte) :
    (e.withGroups n).out.writeRange (e.withGroups n).outLen.toNat v =
      e.out.writeRange 0 (tagChars ++ e.saltBytes ++ [dollar] ++ (groupChars e.result n ++ v)) := by
  have hlen : 0 + (tagChars ++ e.saltBytes ++ [dollar] ++ groupChars e.result n).length
      = 4 + e.saltLen.toNat + 4 * n := by
    simp only [List.length_append, Engine.saltBytes_length, groupChars_length, tagChars, List.length_cons,
      List.length_nil]
    omega
  rw [Engine.withGroups_outLen hsalt hn, ← hlen, ← List.append_assoc, Memory.writeRange_append]
  rfl

/-- What `E_GROUP` makes of the engine with `n` groups written (R172). -/
theorem Engine.withGroups_succ {e : Engine} {n : Nat} (hsalt : e.saltLen.toNat ≤ 16) (hn : n ≤ 21) :
    { e.withGroups n with
      out := (e.withGroups n).out.writeRange (e.withGroups n).outLen.toNat (enc (tripleValue e.result (perm n)) 4)
      outLen := (e.withGroups n).outLen + 4#7
      g := (e.withGroups n).g + 1#5 } = e.withGroups (n + 1) := by
  have hlen : (e.withGroups n).outLen + 4#7 = (e.withGroups (n + 1)).outLen :=
    (BitVec.ofNat_add (4 + e.saltLen.toNat + 4 * n) 4).symm
  have hg : (e.withGroups n).g + 1#5 = (e.withGroups (n + 1)).g := (BitVec.ofNat_add n 1).symm
  rw [Engine.withGroups_write hsalt hn, ← groupChars_succ, hlen, hg]
  rfl

/-- What `E_LAST` makes of the engine with all groups written (R173, R174). -/
theorem Engine.withGroups_last {e : Engine} (hsalt : e.saltLen.toNat ≤ 16) :
    { Engine.reset with
      stage := 29#5
      out := (e.withGroups 21).out.writeRange (e.withGroups 21).outLen.toNat (enc (lastValue e.result) 2)
      outLen := (e.withGroups 21).outLen + 2#7
      outPtr := (e.withGroups 21).outPtr
      cmdErr := e.cmdErr
      rejCode := e.rejCode
      errCode := e.errCode } = e.afterEncoding := by
  have hlen : (e.withGroups 21).outLen + 2#7 = e.afterEncoding.outLen := by
    rw [Engine.afterEncoding, show 90 + e.saltLen.toNat = 4 + e.saltLen.toNat + 4 * 21 + 2 by omega]
    exact (BitVec.ofNat_add (4 + e.saltLen.toNat + 4 * 21) 2).symm
  rw [Engine.withGroups_write hsalt (Nat.le_refl 21), ← encodeDigest_eq, hlen]
  rfl

end Machine

end Sys2Proof

/-! ## The runs of the stages -/

namespace Sys2Proof

open Machine

section
variable {s : State} {n N : Nat} {e : Engine} (hag : s.agenda = []) (hok : s.okFor N)
include hag hok

/-! ### Alternate sum -/

/-- The alternate-sum stage takes five turns (41_alternate_sum.md R126). -/
theorem busyRun_alternateSum (hst : e.stage = 1#5) (hfit : (s.setEng e).inputsFit) (hn : n + 5 ≤ N) :
    BusyRun 5 (s.after n e) (s.after (n + 5) e.afterAlternateSum) := by
  have hInit : BusyRun 1 (s.after n e) (s.after (n + 1) (e.atOpen 2#5 [])) :=
    .port hag hok (by omega) (by rw [hst]; rfl) (portOutcome_aInit _)
  have hPw1 : BusyRun 1 (s.after (n + 1) (e.atOpen 2#5 [])) (s.after (n + 2) (e.atOpen 3#5 e.password)) :=
    .port hag hok (by omega) rfl (portOutcome_aPw1 rfl ⟨hfit.1, hfit.2⟩)
  have hSalt : BusyRun 1 (s.after (n + 2) (e.atOpen 3#5 e.password))
      (s.after (n + 3) (e.atOpen 4#5 (e.password ++ e.saltBytes))) :=
    .port hag hok (by omega) rfl (portOutcome_aSalt rfl ⟨hfit.1, hfit.2⟩)
  have hPw2 : BusyRun 1 (s.after (n + 3) (e.atOpen 4#5 (e.password ++ e.saltBytes)))
      (s.after (n + 4) (e.atOpen 5#5 (e.password ++ e.saltBytes ++ e.password))) :=
    .port hag hok (by omega) rfl (portOutcome_aPw2 rfl ⟨hfit.1, hfit.2⟩)
  have hFin : BusyRun 1 (s.after (n + 4) (e.atOpen 5#5 (e.password ++ e.saltBytes ++ e.password)))
      (s.after (n + 5) e.afterAlternateSum) :=
    .port hag hok (by omega) rfl (portOutcome_aFin rfl)
  exact hInit.trans (hPw1.trans (hSalt.trans (hPw2.trans hFin)))

/-! ### Main sum -/

/-- The cover loop and its exit (42_main_sum.md R134): one turn for each chunk. -/
theorem busyRun_cover {c : Nat} (m : List Byte) (hn : n + coverChunks c ≤ N) :
    BusyRun (coverChunks c + 1) (s.after n { e.atOpen 9#5 m with cnt := c })
      (s.after (n + coverChunks c) { e.atOpen 10#5 (m ++ cover e.alt c) with cnt := 0, lsh := e.pwLen }) := by
  induction c using Nat.strong_induction_on generalizing n m with
  | _ c ih =>
    rcases Nat.eq_zero_or_pos c with rfl | hc
    · rw [cover_zero, List.append_nil]
      exact .quiet hag rfl (exec_mCover_exit rfl)
    · rw [coverChunks_of_pos hc] at hn ⊢
      rw [cover_of_pos _ hc, ← List.append_assoc]
      exact .port_then (.port hag hok (by omega) rfl (portOutcome_mCover rfl hc)) (ih _ (by omega) _ (by omega))

/-- The bit loop and its exit (R135): one turn for each bit of the length. -/
theorem busyRun_bits {v : Nat} (hfit : (s.setEng e).inputsFit) (m : List Byte) (hn : n + bitlen v ≤ N) :
    BusyRun (bitlen v + 1) (s.after n { e.atOpen 10#5 m with lsh := v })
      (s.after (n + bitlen v) { e.atOpen 11#5 (m ++ bits e.alt e.password v) with lsh := 0 }) := by
  induction v using Nat.strong_induction_on generalizing n m with
  | _ v ih =>
    by_cases hv : v = 0
    · subst hv
      rw [bits_zero, List.append_nil]
      exact .quiet hag rfl (exec_mBits_exit rfl)
    · rw [bitlen_of_ne_zero hv] at hn ⊢
      rw [bits_of_ne_zero _ _ hv, ← List.append_assoc]
      exact .port_then (.port hag hok (by omega) rfl (portOutcome_mBits rfl ⟨hfit.1, hfit.2⟩ hv))
        (ih _ (by omega) _ (by omega))

/-- The main-sum stage (R137). -/
theorem busyRun_mainSum (hst : e.stage = 6#5) (hfit : (s.setEng e).inputsFit)
    (hn : n + (4 + coverChunks e.pwLen + bitlen e.pwLen) ≤ N) :
    BusyRun (3 + (coverChunks e.pwLen + 1) + (bitlen e.pwLen + 1) + 1) (s.after n e)
      (s.after (n + (4 + coverChunks e.pwLen + bitlen e.pwLen)) e.afterMainSum) := by
  have hInit : BusyRun 1 (s.after n e) (s.after (n + 1) (e.atOpen 7#5 [])) :=
    .port hag hok (by omega) (by rw [hst]; rfl) (portOutcome_mInit _)
  have hPw : BusyRun 1 (s.after (n + 1) (e.atOpen 7#5 [])) (s.after (n + 2) (e.atOpen 8#5 e.password)) :=
    .port hag hok (by omega) rfl (portOutcome_mPw rfl ⟨hfit.1, hfit.2⟩)
  have hSalt : BusyRun 1 (s.after (n + 2) (e.atOpen 8#5 e.password))
      (s.after (n + 3) { e.atOpen 9#5 (e.password ++ e.saltBytes) with cnt := e.pwLen }) :=
    .port hag hok (by omega) rfl (portOutcome_mSalt rfl ⟨hfit.1, hfit.2⟩)
  have hCover := busyRun_cover hag hok (e := e) (n := n + 3) (c := e.pwLen) (e.password ++ e.saltBytes) (by omega)
  have hBits := busyRun_bits hag hok (e := { e with cnt := 0 }) (n := n + 3 + coverChunks e.pwLen) (v := e.pwLen)
    ⟨hfit.1, hfit.2⟩ (e.password ++ e.saltBytes ++ cover e.alt e.pwLen) (by omega)
  have hFin : BusyRun 1
      (s.after (n + 3 + coverChunks e.pwLen + bitlen e.pwLen)
        { e.atOpen 11#5 (e.password ++ e.saltBytes ++ cover e.alt e.pwLen ++ bits e.alt e.password e.pwLen) with
          cnt := 0, lsh := 0 })
      (s.after (n + 3 + coverChunks e.pwLen + bitlen e.pwLen + 1) e.afterMainSum) := by
    rw [Engine.afterMainSum, mainSum, mainMsg, Engine.password_length]
    exact .port hag hok (by omega) rfl (portOutcome_mFin rfl)
  rw [show n + (4 + coverChunks e.pwLen + bitlen e.pwLen) = n + 3 + coverChunks e.pwLen + bitlen e.pwLen + 1 by omega]
  exact (hInit.trans (hPw.trans (hSalt.trans (hCover.trans (hBits.trans hFin))))).cast (by omega)

/-! ### The P-sequence and the S-sequence -/

/-- The copy loop of the password and its exit (43_sequence_construction.md R142). -/
theorem busyRun_pRep {c : Nat} (hfit : (s.setEng e).inputsFit) (m : List Byte) (hn : n + c ≤ N) :
    BusyRun (c + 1) (s.after n { e.atOpen 13#5 m with cnt := c })
      (s.after (n + c) { e.atOpen 14#5 (m ++ rep e.password c) with cnt := 0 }) := by
  induction c generalizing n m with
  | zero =>
    rw [rep_zero, List.append_nil]
    exact .quiet hag rfl (exec_pRep_exit rfl)
  | succ c ih =>
    rw [rep_succ, ← List.append_assoc]
    exact .port_then (.port hag hok (by omega) rfl (portOutcome_pRep rfl ⟨hfit.1, hfit.2⟩ (Nat.succ_pos c)))
      (ih _ (by omega))

/-- The copy loop of the salt and its exit (R147). -/
theorem busyRun_sRep {c : Nat} (hfit : (s.setEng e).inputsFit) (m : List Byte) (hn : n + c ≤ N) :
    BusyRun (c + 1) (s.after n { e.atOpen 17#5 m with cnt := c })
      (s.after (n + c) { e.atOpen 18#5 (m ++ rep e.saltBytes c) with cnt := 0 }) := by
  induction c generalizing n m with
  | zero =>
    rw [rep_zero, List.append_nil]
    exact .quiet hag rfl (exec_sRep_exit rfl)
  | succ c ih =>
    rw [rep_succ, ← List.append_assoc]
    exact .port_then (.port hag hok (by omega) rfl (portOutcome_sRep rfl ⟨hfit.1, hfit.2⟩ (Nat.succ_pos c)))
      (ih _ (by omega))

/-- The P part of the sequence-construction stage (R150). -/
theorem busyRun_pSequence (hst : e.stage = 12#5) (hfit : (s.setEng e).inputsFit) (hn : n + (e.pwLen + 2) ≤ N) :
    BusyRun (1 + (e.pwLen + 1) + 1 + 1) (s.after n e) (s.after (n + (e.pwLen + 2)) e.afterPSeq) := by
  have hInit : BusyRun 1 (s.after n e) (s.after (n + 1) { e.atOpen 13#5 [] with cnt := e.pwLen }) :=
    .port hag hok (by omega) (by rw [hst]; rfl) (portOutcome_pInit _)
  have hRep := busyRun_pRep hag hok (e := e) (n := n + 1) (c := e.pwLen) hfit [] (by omega)
  have hFin : BusyRun 1 (s.after (n + 1 + e.pwLen) { e.atOpen 14#5 (rep e.password e.pwLen) with cnt := 0 })
      (s.after (n + 1 + e.pwLen + 1) { e.atClosed 15#5 with dp := dpOf e.password, cnt := 0 }) := by
    rw [dpOf, Engine.password_length]
    exact .port hag hok (by omega) rfl (portOutcome_pFin rfl)
  have hFill (d : Digest) : BusyRun 1 (s.after (n + 1 + e.pwLen + 1) { e.atClosed 15#5 with dp := d, cnt := 0 })
      (s.after (n + 1 + e.pwLen + 1)
        { e.atClosed 16#5 with dp := d, pBuf := e.pBuf.writeRange 0 (stretch d e.pwLen), cnt := 0 }) :=
    .quiet hag rfl (exec_pFill ⟨hfit.1, hfit.2⟩)
  rw [Engine.afterPSeq, pSeq, Engine.password_length, show n + (e.pwLen + 2) = n + 1 + e.pwLen + 1 by omega]
  exact (hInit.trans (hRep.trans (hFin.trans (hFill _)))).cast (by omega)

/-- The S part of the sequence-construction stage (R150). -/
theorem busyRun_sSequence {b0 : Byte} (hb0 : e.byteAt .result 0 = b0) (hst : e.stage = 16#5)
    (hfit : (s.setEng e).inputsFit) (hn : n + (18 + b0.toNat) ≤ N) :
    BusyRun (1 + (16 + b0.toNat + 1) + 1 + 1) (s.after n e) (s.after (n + (18 + b0.toNat)) e.afterSSeq) := by
  have hInit : BusyRun 1 (s.after n e) (s.after (n + 1) { e.atOpen 17#5 [] with cnt := 16 + b0.toNat }) := by
    rw [← hb0]
    exact .port hag hok (by omega) (by rw [hst]; rfl) (portOutcome_sInit _)
  have hRep := busyRun_sRep hag hok (e := e) (n := n + 1) (c := 16 + b0.toNat) hfit [] (by omega)
  have hFin : BusyRun 1
      (s.after (n + 1 + (16 + b0.toNat)) { e.atOpen 18#5 (rep e.saltBytes (16 + b0.toNat)) with cnt := 0 })
      (s.after (n + 1 + (16 + b0.toNat) + 1) { e.atClosed 19#5 with ds := dsOf e.saltBytes b0, cnt := 0 }) :=
    .port hag hok (by omega) rfl (portOutcome_sFin rfl)
  have hFill (d : Digest) : BusyRun 1
      (s.after (n + 1 + (16 + b0.toNat) + 1) { e.atClosed 19#5 with ds := d, cnt := 0 })
      (s.after (n + 1 + (16 + b0.toNat) + 1)
        { e.atClosed 20#5 with
          ds := d, sBuf := e.sBuf.writeRange 0 (d.toList.take e.saltLen.toNat), r := 0#13, cnt := 0 }) :=
    .quiet hag rfl (exec_sFill ⟨hfit.1, hfit.2⟩)
  rw [Engine.afterSSeq, sSeq, Engine.saltBytes_length, hb0,
    show n + (18 + b0.toNat) = n + 1 + (16 + b0.toNat) + 1 by omega]
  exact (hInit.trans (hRep.trans (hFin.trans (hFill _)))).cast (by omega)

/-! ### Round mixing -/

/-- The second feed of a round, or its omission (44_round_mixing.md R158). -/
theorem busyRun_rF2 (hfit : (s.setEng e).inputsFit) (hn : n < N) (m : List Byte) :
    BusyRun 1 (s.after n (e.atOpen 22#5 m))
      (s.after (n + if e.r.toNat % 3 ≠ 0 then 1 else 0)
        (e.atOpen 23#5 (m ++ if e.r.toNat % 3 ≠ 0 then e.sBytes else []))) := by
  by_cases hr : e.r.toNat % 3 ≠ 0
  · rw [if_pos hr, if_pos hr]
    exact .port hag hok hn rfl (portOutcome_rF2 rfl ⟨hfit.1, hfit.2⟩ hr)
  · rw [if_neg hr, if_neg hr, List.append_nil]
    exact .quiet hag rfl (exec_rF2_skip (not_not.1 hr))

/-- The third feed of a round, or its omission (R159). -/
theorem busyRun_rF3 (hfit : (s.setEng e).inputsFit) (hn : n < N) (m : List Byte) :
    BusyRun 1 (s.after n (e.atOpen 23#5 m))
      (s.after (n + if e.r.toNat % 7 ≠ 0 then 1 else 0)
        (e.atOpen 24#5 (m ++ if e.r.toNat % 7 ≠ 0 then e.pBytes else []))) := by
  by_cases hr : e.r.toNat % 7 ≠ 0
  · rw [if_pos hr, if_pos hr]
    exact .port hag hok hn rfl (portOutcome_rF3 rfl ⟨hfit.1, hfit.2⟩ hr)
  · rw [if_neg hr, if_neg hr, List.append_nil]
    exact .quiet hag rfl (exec_rF3_skip (not_not.1 hr))

/-- A round up to its digest: five turns feed the message of the round (R155 to R160). -/
theorem busyRun_roundMsg {r : Nat} (hr : e.r.toNat = r) (hfit : (s.setEng e).inputsFit)
    (hn : n + (1 + roundFeeds r) ≤ N) :
    BusyRun 5 (s.after n { e with stage := 20#5 })
      (s.after (n + (1 + roundFeeds r)) (e.atOpen 25#5 (roundMsg r e.result e.pBytes e.sBytes))) := by
  subst hr
  have hops : n + (1 + roundFeeds e.r.toNat)
      = n + 1 + 1 + (if e.r.toNat % 3 ≠ 0 then 1 else 0) + (if e.r.toNat % 7 ≠ 0 then 1 else 0) + 1 := by
    rw [roundFeeds]
    omega
  rw [hops] at hn ⊢
  have hInit : BusyRun 1 (s.after n { e with stage := 20#5 }) (s.after (n + 1) (e.atOpen 21#5 [])) :=
    .port hag hok (by omega) rfl (portOutcome_rInit _)
  have hF1 : BusyRun 1 (s.after (n + 1) (e.atOpen 21#5 []))
      (s.after (n + 1 + 1) (e.atOpen 22#5 (if e.r.toNat % 2 = 1 then e.pBytes else e.result.toList))) :=
    .port hag hok (by omega) rfl (portOutcome_rF1 rfl ⟨hfit.1, hfit.2⟩)
  have hF4 (m : List Byte) :=
    BusyRun.port hag hok hn (e := e.atOpen 24#5 m) rfl (portOutcome_rF4 rfl ⟨hfit.1, hfit.2⟩)
  exact hInit.trans (hF1.trans ((busyRun_rF2 hag hok hfit (by omega) _).trans
    ((busyRun_rF3 hag hok hfit (by omega) _).trans (hF4 _))))

/-- The first `r` rounds, by induction on them (R163): each takes six turns. -/
theorem busyRun_rounds_upto (hst : e.stage = 20#5) (hr0 : e.r = 0#13) (hfit : (s.setEng e).inputsFit) (r : Nat)
    (hr : r ≤ 4999) (hn : n + roundOps r ≤ N) :
    ∃ c, BusyRun (6 * r) (s.after n e) (s.after (n + roundOps r)
      { e with
        stage := 20#5, r := BitVec.ofNat 13 r, result := roundDigest e.result e.pBytes e.sBytes r, ctx := c }) := by
  induction r with
  | zero =>
    refine ⟨e.ctx, ?_⟩
    rw [← hst, ← hr0]
    exact .refl _
  | succ r ih =>
    rw [roundOps_succ,
      show n + (roundOps r + (1 + roundFeeds r) + 1) = n + roundOps r + (1 + roundFeeds r) + 1 by omega] at hn ⊢
    obtain ⟨c, hrun⟩ := ih (by omega) (by omega)
    refine ⟨{ isOpen := false, msg := [] }, ?_⟩
    rw [roundDigest_succ, BitVec.ofNat_add]
    generalize roundDigest e.result e.pBytes e.sBytes r = x at hrun ⊢
    have hrt : (BitVec.ofNat 13 r).toNat = r := by
      rw [BitVec.toNat_ofNat]
      omega
    have hmsg := busyRun_roundMsg hag hok (e := { e with r := BitVec.ofNat 13 r, result := x, ctx := c })
      (n := n + roundOps r) hrt ⟨hfit.1, hfit.2⟩ (by omega)
    exact hrun.trans (hmsg.trans
      (.port hag hok (by omega) rfl (portOutcome_rFin_next rfl (by rw [State.after_eng, hrt]; omega))))

/-- The round-mixing stage (R163): 4999 rounds that lead to the next one, and the last. -/
theorem busyRun_rounds (hst : e.stage = 20#5) (hr0 : e.r = 0#13) (hfit : (s.setEng e).inputsFit)
    (hn : n + 27618 ≤ N) :
    BusyRun 30000 (s.after n e) (s.after (n + 27618) e.afterRounds) := by
  have hops : roundOps 4999 = 27612 ∧ roundFeeds 4999 = 4 := by decide
  obtain ⟨c, hrun⟩ := busyRun_rounds_upto hag hok (n := n) hst hr0 hfit 4999 (Nat.le_refl _) (by omega)
  rw [hops.1] at hrun
  rw [Engine.afterRounds, rounds, show Config.rounds = 4999 + 1 from rfl, roundDigest_succ]
  generalize roundDigest e.result e.pBytes e.sBytes 4999 = x at hrun ⊢
  have hmsg := busyRun_roundMsg hag hok (e := { e with r := 4999#13, result := x, ctx := c }) (n := n + 27612)
    (r := 4999) rfl ⟨hfit.1, hfit.2⟩ (by rw [hops.2]; omega)
  rw [hops.2] at hmsg
  exact hrun.trans (hmsg.trans (.port hag hok (by omega) rfl (portOutcome_rFin_last rfl (Nat.le_refl 4999))))

end

section
variable {s : State} {n : Nat} {e : Engine} (hag : s.agenda = [])
include hag

/-! ### Encoding -/

/-- The groups, one turn each (45_encoding_stage.md R172). -/
theorem busyRun_groups (hsalt : e.saltLen.toNat ≤ 16) (k : Nat) (hk : k ≤ 21) :
    BusyRun k (s.after n (e.withGroups 0)) (s.after n (e.withGroups k)) := by
  induction k with
  | zero => exact .refl _
  | succ k ih =>
    have hg := Engine.withGroups_g (e := e) (n := k) (by omega)
    have hlen := Engine.withGroups_outLen (n := k) hsalt (by omega)
    have hturn := exec_eGroup (s := s.after n (e.withGroups k)) (by rw [State.after_eng, hg]; omega)
      (by rw [State.after_eng, hlen]; omega)
    rw [State.after_eng, hg] at hturn
    rw [← Engine.withGroups_succ hsalt (by omega)]
    exact (ih (by omega)).trans (.quiet hag rfl hturn)

/-- The encoding stage (R176): the head of the output, the 21 groups and their exit, the last group. -/
theorem busyRun_encoding (hst : e.stage = 26#5) (hfit : (s.setEng e).inputsFit) :
    BusyRun 24 (s.after n e) (s.after n e.afterEncoding) := by
  have hsalt : e.saltLen.toNat ≤ 16 := hfit.2
  have hHead : BusyRun 1 (s.after n e) (s.after n (e.withGroups 0)) := by
    have hturn := exec_ePrefix (s := s.after n e) ⟨hfit.1, hfit.2⟩
    refine .quiet hag (by rw [hst]; rfl) (hturn.trans ?_)
    rw [Engine.withGroups, groupChars, List.range_zero, List.map_nil, List.flatten_nil, List.append_nil]
    rfl
  have hExit : BusyRun 1 (s.after n (e.withGroups 21)) (s.after n { e.withGroups 21 with stage := 28#5 }) :=
    .quiet hag rfl (exec_eGroup_exit (Nat.le_of_eq (Engine.withGroups_g (Nat.le_refl 21)).symm))
  have hlen := Engine.withGroups_outLen hsalt (Nat.le_refl 21)
  have hLast : BusyRun 1 (s.after n { e.withGroups 21 with stage := 28#5 }) (s.after n e.afterEncoding) := by
    rw [← Engine.withGroups_last hsalt]
    exact .quiet hag rfl (exec_eLast (by simp only [State.after_eng, hlen]; omega))
  exact hHead.trans ((busyRun_groups hag hsalt 21 (Nat.le_refl 21)).trans (hExit.trans hLast))

end

/-! ### The whole run -/

/-- The step count of R262 in the form that it is stated in. -/
theorem runSteps_eq (len : Nat) (b0 : Byte) :
    runSteps len b0 = 30059 + len + coverChunks len + bitlen len + b0.toNat := by
  simp only [runSteps, mainSteps, pSteps, sSteps, Config.rounds]
  omega

/-- A whole run from `STAGE = 1`: the five stages one behind the other (70_reset_and_hazards.md R262, R263). -/
theorem busyRun_run {s : State} (hag : s.agenda = []) (hst : s.eng.stage = 1#5) (hfit : s.inputsFit) {b0 : Byte}
    (hb0 : (mainDigest s.eng.password s.eng.saltBytes).toList.getD 0 0#8 = b0)
    (hok : s.okFor (runDigOps s.eng.pwLen b0)) :
    BusyRun (runSteps s.eng.pwLen b0) s (s.after (runDigOps s.eng.pwLen b0) s.eng.afterRun) := by
  have hb0P : s.eng.afterAlternateSum.afterMainSum.afterPSeq.byteAt .result 0 = b0 := by
    rw [Engine.byteAt_result_zero, Engine.afterPSeq_result, Engine.mainDigest_of_stages, ← digest_getD_zero, hb0]
  have hpwM : s.eng.afterAlternateSum.afterMainSum.pwLen = s.eng.pwLen := by simp
  have hops : runDigOps s.eng.pwLen b0 = 0 + 5 + (4 + coverChunks s.eng.pwLen + bitlen s.eng.pwLen) + (s.eng.pwLen + 2)
      + (18 + b0.toNat) + 27618 := by
    rw [runDigOps]
    omega
  rw [hops] at hok ⊢
  have hA := busyRun_alternateSum hag hok (n := 0) hst hfit (by omega)
  rw [State.after_zero] at hA
  have hM := hA.trans (busyRun_mainSum hag hok (Engine.afterAlternateSum_stage _)
    (by simpa [State.inputsFit] using hfit) (by rw [Engine.afterAlternateSum_pwLen]; omega))
  rw [Engine.afterAlternateSum_pwLen] at hM
  have hP := hM.trans (busyRun_pSequence hag hok (Engine.afterMainSum_stage _)
    (by simpa [State.inputsFit] using hfit) (by rw [hpwM]; omega))
  rw [hpwM] at hP
  have hS := hP.trans (busyRun_sSequence hag hok hb0P (Engine.afterPSeq_stage _)
    (by simpa [State.inputsFit] using hfit) (by omega))
  have hR := hS.trans (busyRun_rounds hag hok (Engine.afterSSeq_stage _) (Engine.afterSSeq_r _)
    (by simpa [State.inputsFit] using hfit) (Nat.le_refl _))
  have hE := hR.trans (busyRun_encoding hag (Engine.afterRounds_stage _)
    (by simpa [State.inputsFit] using hfit))
  exact hE.cast (by rw [runSteps_eq]; omega)

/-- Settles O59: the run of the five stages, BUSY before each of its turns, and the output read back. -/
theorem engineComputesCrypt6 : Obligations.EngineComputesCrypt6 := by
  intro s hinv hag hst pw salt b0 steps hok
  have hsalt : s.eng.saltLen.toNat ≤ 16 := hinv.bounded.saltLen_le
  have hrun := busyRun_run hag hst ⟨hinv.bounded.pwLen_le, hsalt⟩ (b0 := b0) rfl hok
  have hsteps : steps = runSteps s.eng.pwLen b0 := (runSteps_eq s.eng.pwLen b0).symm
  rw [← hsteps] at hrun
  exact ⟨hrun.busy_before, _, hrun.run_eq, rfl,
    Engine.afterRun_outBytes hinv.memForm.pBuf hinv.memForm.sBuf hinv.memForm.out hsalt, rfl, hsteps⟩

end Sys2Proof

/-! ## What the host sees of `STATUS`, and the state after reset -/

namespace Sys2Proof

open Machine

/-! ### `STATUS` and the pins -/

/-- The bits of `STATUS` (10_state.md R34), whatever the flags are. -/
theorem statusBits (outAv cmdErr fault done busy : Bool) :
    let w : Byte := 0#3 ++ BitVec.ofBool outAv ++ BitVec.ofBool cmdErr ++ BitVec.ofBool fault ++ BitVec.ofBool done
      ++ BitVec.ofBool busy
    w.getLsbD 0 = busy ∧ w.getLsbD 1 = done ∧ w.getLsbD 2 = fault ∧ w.getLsbD 3 = cmdErr ∧ w.getLsbD 4 = outAv ∧
      w.toNat < 2 ^ 5 ∧ (w &&& 0x07#8 = 0x00#8 ↔ busy = false ∧ done = false ∧ fault = false) := by
  revert outAv cmdErr fault done busy
  decide

/-- The values of `STATUS`: one class at most, and output to be read in `DONE` only (R34). -/
theorem statusValues (outAv cmdErr fault done busy : Bool) (hav : outAv = true → done = true)
    (hclass : (busy = true → done = false ∧ fault = false) ∧ (done = true → fault = false)) :
    (0#3 ++ BitVec.ofBool outAv ++ BitVec.ofBool cmdErr ++ BitVec.ofBool fault ++ BitVec.ofBool done
      ++ BitVec.ofBool busy : Byte) ∈
      [0x00#8, 0x08#8, 0x01#8, 0x09#8, 0x12#8, 0x1A#8, 0x02#8, 0x0A#8, 0x04#8, 0x0C#8] := by
  revert outAv cmdErr fault done busy
  decide

namespace Machine

variable (e : Engine)

theorem Engine.isIdle_iff : e.isIdle = true ↔ e.stage = 0#5 := beq_iff_eq

theorem Engine.isDone_iff : e.isDone = true ↔ e.stage = 29#5 := beq_iff_eq

theorem Engine.isFault_iff : e.isFault = true ↔ e.stage = 30#5 := beq_iff_eq

theorem Engine.isBusy_iff : e.isBusy = true ↔ 1 ≤ e.stage.toNat ∧ e.stage.toNat ≤ 28 := by
  simp [Engine.isBusy, BitVec.ule]

theorem Engine.outAv_iff : e.outAv = true ↔ e.stage = 29#5 ∧ e.outPtr.toNat < e.outLen.toNat := by
  simp [Engine.outAv, Engine.isDone_iff, BitVec.ult]

/-- `STAGE` is in one class at most (R26). -/
theorem Engine.classes_exclusive :
    (e.isBusy = true → e.isDone = false ∧ e.isFault = false) ∧ (e.isDone = true → e.isFault = false) := by
  have h : ∀ c : BitVec 5,
      ((Stage.aInit.ule c && c.ule Stage.eLast) = true → (c == Stage.done) = false ∧ (c == Stage.fault) = false) ∧
        ((c == Stage.done) = true → (c == Stage.fault) = false) := by decide
  exact h e.stage

/-- In the codes of R26 no class flag is set exactly in `IDLE` (R34). -/
theorem Engine.no_class_iff (h31 : e.stage ≠ 31#5) :
    e.isBusy = false ∧ e.isDone = false ∧ e.isFault = false ↔ e.stage = 0#5 := by
  have h : ∀ c : BitVec 5, c ≠ 31#5 →
      ((Stage.aInit.ule c && c.ule Stage.eLast) = false ∧ (c == Stage.done) = false ∧
        (c == Stage.fault) = false ↔ c = 0#5) := by
    decide
  exact h e.stage h31

end Machine

/-- Settles O13, from the bits and the values of `STATUS` over its five flags. -/
theorem statusView : Obligations.StatusView := by
  intro e
  obtain ⟨h0, h1, h2, h3, h4, hlt, hclass⟩ := statusBits e.outAv e.cmdErr e.isFault e.isDone e.isBusy
  have hst (n : Nat) (hn : n < 2 ^ 5) : e.stage.toNat = n ↔ e.stage = BitVec.ofNat 5 n := by
    rw [← BitVec.toNat_inj, BitVec.toNat_ofNat, Nat.mod_eq_of_lt hn]
  refine ⟨?_, ?_, ?_, h3, ?_, hlt, rfl, rfl, fun h31 => ⟨?_, hclass.trans (e.no_class_iff h31)⟩⟩
  · exact (iff_of_eq (congrArg (· = true) h0)).trans e.isBusy_iff
  · rw [hst 29 (by decide), ← e.isDone_iff]
    exact iff_of_eq (congrArg (· = true) h1)
  · rw [hst 30 (by decide), ← e.isFault_iff]
    exact iff_of_eq (congrArg (· = true) h2)
  · rw [hst 29 (by decide), ← e.outAv_iff]
    exact iff_of_eq (congrArg (· = true) h4)
  · exact statusValues _ _ _ _ _ (fun h => e.isDone_iff.2 (e.outAv_iff.1 h).1) e.classes_exclusive

/-! ### Reset -/

theorem Machine.Engine.reset_allZero : Engine.reset.AllZero where
  bytes sp k := by
    have hdigest : (Vector.replicate 64 0#8 : Digest).toList.getD k 0#8 = 0#8 := by
      rw [Vector.toList_replicate, List.getD_eq_getElem?_getD, List.getElem?_replicate]
      split <;> rfl
    cases sp
    case alt | result | dp | ds => exact hdigest
    all_goals rfl
  stage := rfl
  pwLen := rfl
  saltLen := rfl
  outLen := rfl
  outPtr := rfl
  cnt := rfl
  lsh := rfl
  r := rfl
  g := rfl
  ctxOpen := rfl
  ctxMsg := rfl
  cmdErr := rfl
  rejCode := rfl
  errCode := rfl

theorem Machine.Engine.reset_status : Engine.reset.status = 0x00#8 := by decide

/-- Settles O40: `HardReset` puts the engine of R39 in place. -/
theorem resetValues : Obligations.ResetValues := fun _ _ =>
  ⟨Engine.reset_allZero, Engine.reset_status, Engine.reset, rfl, Engine.reset_allZero, rfl, Engine.reset_status,
    by decide, by decide⟩

/-- The engine of R39 meets the invariant of R38, whatever the parameters are. -/
theorem Machine.Engine.reset_inv (p : Params) : Engine.reset.Inv p where
  bounded :=
    ⟨by decide, Nat.zero_le _, by decide, by decide, by decide, by decide, by decide, Nat.zero_le _, Nat.zero_le _⟩
  memForm := ⟨Memory.wf_nil, Memory.wf_nil, Memory.wf_nil, Memory.wf_nil, Memory.wf_nil⟩
  zeroTails := ⟨fun _ _ => rfl, fun _ _ => rfl, fun _ _ => rfl, fun _ _ => rfl, fun _ _ => rfl⟩
  ctxByStage := ⟨by decide, fun _ => rfl⟩
  filled := ⟨fun h => absurd h (by decide), fun h => absurd h (by decide)⟩
  quiescent := ⟨fun _ => rfl, fun h => absurd h (by decide), fun h => absurd h (by decide)⟩
  outProgress := ⟨fun _ => ⟨rfl, rfl⟩, fun h => absurd h (by decide), fun h => absurd h (by decide),
    fun h => absurd h (by decide)⟩
  errCodes := ⟨by decide, by decide, fun _ => rfl, fun h => absurd h (by decide)⟩

/-- Settles O37: the reset engine does not depend on the parameters. -/
theorem resetInvariant : Obligations.ResetInvariant := Engine.reset_inv

end Sys2Proof

/-! ## What an agent's step can do -/

namespace Sys2Proof

open Machine

/-! ### What decodes is what the encoder gives (30_encoding.md R84, 10_state.md R26) -/

theorem encode_of_decodeStage5 {c : BitVec 5} {i : Instr} (h : decodeStage5 c = .ok i) : encode i = .stage5 c := by
  have hall : ∀ c : BitVec 5, ∀ i ∈ (decodeStage5 c).toOption, encode i = .stage5 c := by decide
  exact hall c i (by rw [h]; rfl)

/-- A command word is its three fields (R80). -/
theorem cmdFields_eq (w : Word16) : opField w ++ rsvField w ++ immField w = w := by
  have hhigh : opField w ++ rsvField w = w.extractLsb' 8 (4 + 4) := BitVec.extractLsb'_append_extractLsb'_eq_extractLsb' rfl
  rw [hhigh]
  exact (BitVec.extractLsb'_append_extractLsb'_eq_extractLsb' (len₂ := 8) rfl).trans BitVec.extractLsb'_eq_self

theorem cmdWord_of_fields {w : Word16} {op : BitVec 4} (hop : opField w = op) (hrsv : rsvField w = 0#4) :
    cmdWord op (immField w) = w := by
  rw [cmdWord, ← hop, ← hrsv]
  exact cmdFields_eq w

theorem encode_of_bareCommand {w : Word16} {op : BitVec 4} {i j : Instr} (hop : opField w = op)
    (he : encode i = .cmd16 (cmdWord op 0#8)) (h : bareCommand i w = .ok j) : encode j = .cmd16 w := by
  unfold bareCommand at h
  split at h
  next hf =>
    cases h
    rw [he, ← hf.2, cmdWord_of_fields hop hf.1]
  next => cases h

theorem encode_of_immCommand {w : Word16} {op : BitVec 4} {f : Byte → Instr} {j : Instr} (hop : opField w = op)
    (he : ∀ b, encode (f b) = .cmd16 (cmdWord op b)) (h : immCommand f w = .ok j) : encode j = .cmd16 w := by
  unfold immCommand at h
  split at h
  next hf =>
    cases h
    rw [he, cmdWord_of_fields hop hf]
  next => cases h

theorem encode_illegalOp7 {w : Word16} (hop : opField w = 7#4) : encode (.illegalOp7 (w.extractLsb' 0 12)) = .cmd16 w := by
  have hw : opField w ++ w.extractLsb' 0 12 = w :=
    (BitVec.extractLsb'_append_extractLsb'_eq_extractLsb' (len₂ := 4) rfl).trans BitVec.extractLsb'_eq_self
  rw [encode, ← hop, hw]

theorem encode_illegalOp8to15 {w : Word16} (hop : 8 ≤ (opField w).toNat) :
    encode (.illegalOp8to15 (w.extractLsb' 0 15)) = .cmd16 w := by
  have hw : w.extractLsb' 15 1 ++ w.extractLsb' 0 15 = w :=
    (BitVec.extractLsb'_append_extractLsb'_eq_extractLsb' (len₂ := 1) rfl).trans BitVec.extractLsb'_eq_self
  have hbit : w.extractLsb' 15 1 = (opField w).extractLsb' 3 1 := by
    rw [opField]
    apply BitVec.eq_of_getLsbD_eq
    intro k hk
    simp [show 3 + k < 4 by omega, hk, ← Nat.add_assoc]
  have hone : ∀ op : BitVec 4, 8 ≤ op.toNat → op.extractLsb' 3 1 = 1#1 := by decide
  rw [encode, ← hone _ hop, ← hbit, hw]

theorem encode_of_decodeCmd16 {w : Word16} {i : Instr} (h : decodeCmd16 w = .ok i) : encode i = .cmd16 w := by
  have hop {n : Nat} (hn : (opField w).toNat = n) : opField w = BitVec.ofNat 4 n := by
    rw [← hn, BitVec.ofNat_toNat, BitVec.setWidth_eq]
  unfold decodeCmd16 at h
  split at h
  next hn => exact encode_of_bareCommand (hop hn) rfl h
  next hn => exact encode_of_bareCommand (hop hn) rfl h
  next hn => exact encode_of_immCommand (hop hn) (fun _ => rfl) h
  next hn => exact encode_of_immCommand (hop hn) (fun _ => rfl) h
  next hn => exact encode_of_bareCommand (hop hn) rfl h
  next hn => exact encode_of_bareCommand (hop hn) rfl h
  next hn => exact encode_of_immCommand (hop hn) (fun _ => rfl) h
  next hn =>
    cases h
    exact encode_illegalOp7 (hop hn)
  next =>
    cases h
    refine encode_illegalOp8to15 ?_
    simp only [imp_false] at *
    omega

/-! ### The host's commands (46_host_commands.md) -/

/-- What a command word can make of the engine `e` of an engine with parameters `p` (R181 to R188). -/
inductive HostEffect (p : Params) (e : Engine) : Word16 → Engine → Prop where
  /-- The command is only answered. -/
  | answered (w : Word16) : HostEffect p e w e
  | rejected (w : Word16) (c : RejCause) : HostEffect p e w (e.noteRejection c)
  | cleared (hacc : e.acceptsClr = true) : HostEffect p e (cmdWord 1#4 0#8) Engine.reset
  | pushedPw (b : Byte) (hidle : e.stage = 0#5) (hlen : e.pwLen + 1 ≤ p.pwMax) :
      HostEffect p e (cmdWord 2#4 b) { e with pw := e.pw.writeRange e.pwLen [b], pwLen := e.pwLen + 1 }
  | overflowed (b : Byte) (hidle : e.stage = 0#5) (hfull : e.pwLen = p.pwMax) :
      HostEffect p e (cmdWord 2#4 b) ((e.noteRejection .faulted).faultEntry .pwOverflow)
  | pushedSalt (b : Byte) (hidle : e.stage = 0#5) (hlen : e.saltLen.toNat < 16) :
      HostEffect p e (cmdWord 3#4 b)
        { e with salt := e.salt.writeRange e.saltLen.toNat [b], saltLen := e.saltLen + 1#5 }
  | started (hidle : e.stage = 0#5) : HostEffect p e (cmdWord 4#4 0#8) { e with stage := 1#5 }
  | popped (hdone : e.stage = 29#5) (hne : e.outPtr ≠ e.outLen) :
      HostEffect p e (cmdWord 5#4 0#8) { e with outPtr := e.outPtr + 1#7 }

/-- What a step of the host does: the engine's writes, and a response. -/
structure HostStep (w : Word16) (s t : State) : Prop where
  frame : t = { s with eng := t.eng, responses := t.responses }
  engine : HostEffect s.cfg s.eng w t.eng

section
variable {w : Word16} {s t : State}

theorem HostStep.of_reject {c : RejCause} (h : (.next (s.reject c) : Out) = .next t) : HostStep w s t := by
  cases h
  exact ⟨rfl, .rejected w c⟩

theorem HostStep.of_respond {r : Word16} (h : (.next (s.respond r) : Out) = .next t) : HostStep w s t := by
  cases h
  exact ⟨rfl, .answered w⟩

theorem hostStep_of_execClr (h : execClr s = .next t) : HostStep (cmdWord 1#4 0#8) s t := by
  unfold execClr at h
  split at h
  next hacc =>
    cases h
    exact ⟨rfl, .cleared hacc⟩
  next => exact .of_reject h

theorem hostStep_of_execPushp {b : Byte} (h : execPushp b s = .next t) : HostStep (cmdWord 2#4 b) s t := by
  unfold execPushp at h
  split at h
  next => exact .of_reject h
  next hidle =>
    have hidle : s.eng.stage = 0#5 := by simpa [Engine.isIdle] using hidle
    split at h
    next hfull =>
      cases h
      exact ⟨rfl, .overflowed b hidle hfull⟩
    next =>
      obtain ⟨hlen, h⟩ := memWrite_next h
      cases h
      exact ⟨rfl, .pushedPw b hidle hlen⟩

theorem hostStep_of_execPushs {b : Byte} (h : execPushs b s = .next t) : HostStep (cmdWord 3#4 b) s t := by
  unfold execPushs at h
  split at h
  next => exact .of_reject h
  next hidle =>
    have hidle : s.eng.stage = 0#5 := by simpa [Engine.isIdle] using hidle
    split at h
    next hlen =>
      obtain ⟨-, h⟩ := memWrite_next h
      cases h
      exact ⟨rfl, .pushedSalt b hidle hlen⟩
    next => exact .of_respond h

theorem hostStep_of_execStart (h : execStart s = .next t) : HostStep (cmdWord 4#4 0#8) s t := by
  unfold execStart at h
  split at h
  next => exact .of_reject h
  next hidle =>
    cases h
    exact ⟨rfl, .started (by simpa [Engine.isIdle] using hidle)⟩

theorem hostStep_of_execPopc (h : execPopc s = .next t) : HostStep (cmdWord 5#4 0#8) s t := by
  unfold execPopc at h
  split at h
  next => exact .of_reject h
  next hdone =>
    split at h
    next => exact .of_reject h
    next hne =>
      obtain ⟨-, h⟩ := memRead_next h
      cases h
      exact ⟨rfl, .popped (by simpa [Engine.isDone] using hdone) hne⟩

theorem hostStep_of_execRdreg {sel : Byte} (h : execRdreg sel s = .next t) : HostStep w s t := by
  unfold execRdreg at h
  split at h
  next => exact .of_respond h
  next => exact .of_reject h

/-- Every command word that answers a next state does one of the things of `HostEffect`. -/
theorem hostStep_of_hostCmd (h : hostCmd w s = .next t) : HostStep w s t := by
  unfold hostCmd at h
  split at h
  next i hd =>
    have henc := encode_of_decodeCmd16 hd
    cases i with
    | nop => exact .of_respond h
    | clr => cases henc; exact hostStep_of_execClr h
    | pushp b => cases henc; exact hostStep_of_execPushp h
    | pushs b => cases henc; exact hostStep_of_execPushs h
    | start => cases henc; exact hostStep_of_execStart h
    | popc => cases henc; exact hostStep_of_execPopc h
    | rdreg sel => exact hostStep_of_execRdreg h
    | illegalOp7 | illegalOp8to15 => exact .of_reject h
    | _ => nomatch henc
  next => exact .of_reject h

end

end Sys2Proof

/-! ## What a sequencer operation writes, register by register -/

namespace Sys2Proof

open Machine

namespace Machine

/-! ### The written-by columns of 10_state.md R22 to R33 as functions of the operation -/

/-- The `STAGE` code of a sequencer operation (R26). -/
def opCode (i : Instr) : BitVec 5 :=
  match encode i with
  | .stage5 c => c
  | _ => 0#5

/-- The bytes that a sequencer operation feeds (20_memory.md R64, 40_digest_port.md R116). -/
@[simp] def Engine.fedBytes (e : Engine) : Instr → List Byte
  | .aPw1 | .aPw2 | .mPw => e.bytes .pw 0 e.pwLen
  | .aSalt | .mSalt => e.bytes .salt 0 e.saltLen.toNat
  | .mCover => e.bytes .alt 0 (min e.cnt 64)
  | .mBits => if e.lsh = 0 then [] else if e.lsh.testBit 0 then e.bytes .alt 0 64 else e.bytes .pw 0 e.pwLen
  | .pRep => if e.cnt = 0 then [] else e.bytes .pw 0 e.pwLen
  | .sRep => if e.cnt = 0 then [] else e.bytes .salt 0 e.saltLen.toNat
  | .rF1 => if e.r.getLsbD 0 then e.bytes .p 0 e.pwLen else e.bytes .result 0 64
  | .rF2 => if e.r.toNat % 3 = 0 then [] else e.bytes .s 0 e.saltLen.toNat
  | .rF3 => if e.r.toNat % 7 = 0 then [] else e.bytes .p 0 e.pwLen
  | .rF4 => if e.r.getLsbD 0 then e.bytes .result 0 64 else e.bytes .p 0 e.pwLen
  | _ => []

/-- `CTX` after an operation: started, taken, or its message extended by what is fed (R33). -/
@[simp] def Engine.ctxAfter (e : Engine) : Instr → DigestCtx
  | .aInit | .mInit | .pInit | .sInit | .rInit => { isOpen := true, msg := [] }
  | .aFin | .mFin | .pFin | .sFin | .rFin => { isOpen := false, msg := [] }
  | i => { e.ctx with msg := e.ctx.msg ++ e.fedBytes i }

/-- `STAGE` after an operation that does not fault (R26). -/
@[simp] def Engine.stageAfter (e : Engine) : Instr → BitVec 5
  | .mCover => if e.cnt > 0 then 9#5 else 10#5
  | .mBits => if e.lsh ≠ 0 then 10#5 else 11#5
  | .pRep => if e.cnt > 0 then 13#5 else 14#5
  | .sRep => if e.cnt > 0 then 17#5 else 18#5
  | .rFin => if e.r.toNat < 4999 then 20#5 else 26#5
  | .eGroup => if e.g.toNat < 21 then 27#5 else 28#5
  | i => opCode i + 1#5

/-- `CNT` after an operation (R28). -/
@[simp] def Engine.cntAfter (e : Engine) : Instr → Nat
  | .mSalt | .pInit => e.pwLen
  | .mCover => e.cnt - min e.cnt 64
  | .pRep | .sRep => e.cnt - 1
  | .sInit => 16 + e.result[0].toNat
  | _ => e.cnt

/-- `LSH` after an operation (R28). -/
@[simp] def Engine.lshAfter (e : Engine) : Instr → Nat
  | .mCover => if e.cnt > 0 then e.lsh else e.pwLen
  | .mBits => e.lsh >>> 1
  | _ => e.lsh

/-- `R` after an operation (R28). -/
@[simp] def Engine.rAfter (e : Engine) : Instr → BitVec 13
  | .sFill => 0#13
  | .rFin => if e.r.toNat < 4999 then e.r + 1#13 else e.r
  | _ => e.r

/-- `G` after an operation (R28). -/
@[simp] def Engine.gAfter (e : Engine) : Instr → BitVec 5
  | .ePrefix => 0#5
  | .eGroup => if e.g.toNat < 21 then e.g + 1#5 else e.g
  | _ => e.g

/-- `OUTLEN` after an operation (R32). -/
@[simp] def Engine.outLenAfter (e : Engine) : Instr → BitVec 7
  | .ePrefix => 4#7 + e.saltLen.setWidth 7
  | .eGroup => if e.g.toNat < 21 then e.outLen + 4#7 else e.outLen
  | .eLast => e.outLen + 2#7
  | _ => e.outLen

/-- `OUT` after an operation (R32, 20_memory.md R64). -/
@[simp] def Engine.outAfter (e : Engine) : Instr → Memory
  | .ePrefix => e.out.writeRange 0 (tagChars ++ e.saltBytes ++ [dollar])
  | .eGroup =>
    if e.g.toNat < 21 then e.out.writeRange e.outLen.toNat (enc (tripleValue e.result (perm e.g.toNat)) 4) else e.out
  | .eLast => e.out.writeRange e.outLen.toNat (enc (lastValue e.result) 2)
  | _ => e.out

/-- The engine with everything written that an operation writes when it does not fault. -/
@[simp] def Engine.written (e : Engine) (i : Instr) : Engine :=
  { e with
    alt := if i = .aFin then sha512 e.ctx.msg else e.alt
    result := if i ∈ [.mFin, .rFin] then sha512 e.ctx.msg else e.result
    dp := if i = .pFin then sha512 e.ctx.msg else e.dp
    ds := if i = .sFin then sha512 e.ctx.msg else e.ds
    stage := e.stageAfter i
    cnt := e.cntAfter i
    lsh := e.lshAfter i
    r := e.rAfter i
    g := e.gAfter i
    pBuf := if i = .pFill then e.pBuf.writeRange 0 (stretch e.dp e.pwLen) else e.pBuf
    sBuf := if i = .sFill then e.sBuf.writeRange 0 (e.bytes .ds 0 e.saltLen.toNat) else e.sBuf
    out := e.outAfter i
    outLen := e.outLenAfter i
    outPtr := if i = .ePrefix then 0#7 else e.outPtr
    ctx := e.ctxAfter i }

/-- The engine after a sequencer operation that does not fault: `E_LAST` zeroises behind its writes (45_encoding_stage.md
R173). -/
@[simp] def Engine.afterOp (e : Engine) : Instr → Engine
  | .eLast => (e.written .eLast).zeroiseWorking
  | i => e.written i

@[simp] theorem State.setEng_setEng (s : State) (e e' : Engine) : (s.setEng e).setEng e' = s.setEng e' := rfl

/-- The three stores of `E_PREFIX` are one (R171). -/
theorem Engine.outAfter_ePrefix (e : Engine) :
    e.outAfter .ePrefix = ((e.out.writeRange 0 tagChars).writeRange 3 (e.bytes .salt 0 e.saltLen.toNat)).writeRange
      (3 + e.saltLen.toNat) [dollar] := by
  rw [Engine.outAfter, Memory.writeRange_append, Memory.writeRange_append, List.length_append, Engine.saltBytes_length]
  simp [tagChars, Engine.saltBytes]

end Machine

/-! ### Every operation does that, or enters `FAULT` -/

/-- What a sequencer operation that answers a next state does: the draw of an answer, and the engine's writes or fault
entry (40_digest_port.md R114). -/
structure SeqEffect (i : Instr) (s t : State) : Prop where
  frame : t = { s with eng := t.eng, answers := t.answers, digCount := t.digCount }
  engine : t.eng = s.eng.faulted 2#2 ∨ t.eng = s.eng.afterOp i

section
variable {i : Instr} {s t : State}

theorem SeqEffect.of_setEng {e : Engine} (h : (.next (s.setEng e) : Out) = .next t) (he : e = s.eng.afterOp i) :
    SeqEffect i s t := by
  cases h
  exact ⟨rfl, .inr he⟩

theorem SeqEffect.of_fault (h : t = s.drawAnswer.raiseFault .digestFail) : SeqEffect i s t := by
  subst h
  exact ⟨rfl, .inl rfl⟩

theorem SeqEffect.of_answered {e : Engine} (h : (.next (s.answered e) : Out) = .next t) (he : e = s.eng.afterOp i) :
    SeqEffect i s t := by
  cases h
  exact ⟨rfl, .inr he⟩

theorem SeqEffect.of_digStart (f : Engine → Engine) (h : (digStart s fun u => .next (u.setEng (f u.eng))) = .next t)
    (hf : f { s.eng with ctx := { isOpen := true, msg := [] } } = s.eng.afterOp i) : SeqEffect i s t := by
  rcases digStart_next h with ⟨-, h⟩ | ⟨-, h⟩
  · exact .of_fault h
  · exact .of_answered h hf

theorem SeqEffect.of_feed (f : Engine → Engine) {sp : Space} {n : Nat}
    (h : (memRead sp 0 n s fun x => digFeed x s fun u => .next (u.setEng (f u.eng))) = .next t)
    (hf : f { s.eng with ctx := { s.eng.ctx with msg := s.eng.ctx.msg ++ s.eng.bytes sp 0 n } } = s.eng.afterOp i) :
    SeqEffect i s t := by
  obtain ⟨hopen, ⟨-, h⟩ | ⟨-, h⟩⟩ := digFeed_next (memRead_next h).2
  · exact .of_fault h
  · rw [← hopen] at h
    exact .of_answered h hf

theorem SeqEffect.of_digFinal (f : Digest → Engine → Engine)
    (h : (digFinal s fun d u => .next (u.setEng (f d u.eng))) = .next t)
    (hf : f (sha512 s.eng.ctx.msg) { s.eng with ctx := { isOpen := false, msg := [] } } = s.eng.afterOp i) :
    SeqEffect i s t := by
  obtain ⟨-, ⟨-, h⟩ | ⟨-, h⟩⟩ := digFinal_next h
  · exact .of_fault h
  · exact .of_answered h hf

end

/-! `R_FIN` with its two ends told apart (R161). -/

theorem exec_rFin_next {s : State} (hr : s.eng.r.toNat < 4999) :
    exec .rFin s = digFinal s fun d t =>
      .next (t.setEng { t.eng with result := d, r := s.eng.r + 1#13, stage := 20#5 }) := by
  simp only [exec, execRFin, Config.rounds, Nat.reduceSub, hr, if_true]

theorem exec_rFin_last {s : State} (hr : ¬s.eng.r.toNat < 4999) :
    exec .rFin s = digFinal s fun d t => .next (t.setEng { t.eng with result := d, stage := 26#5 }) := by
  simp only [exec, execRFin, Config.rounds, Nat.reduceSub, hr, if_false]

/-- Every sequencer operation, case by case. -/
theorem seqEffect_of_exec {c : BitVec 5} {i : Instr} {s t : State} (hd : decodeStage5 c = .ok i)
    (h : exec i s = .next t) : SeqEffect i s t := by
  have henc := encode_of_decodeStage5 hd
  cases i with
  | aInit => exact .of_digStart (fun e => { e with stage := 2#5 }) h rfl
  | aPw1 => exact .of_feed (fun e => { e with stage := 3#5 }) h rfl
  | aSalt => exact .of_feed (fun e => { e with stage := 4#5 }) h rfl
  | aPw2 => exact .of_feed (fun e => { e with stage := 5#5 }) h rfl
  | aFin => exact .of_digFinal (fun d e => { e with alt := d, stage := 6#5 }) h rfl
  | mInit => exact .of_digStart (fun e => { e with stage := 7#5 }) h rfl
  | mPw => exact .of_feed (fun e => { e with stage := 8#5 }) h rfl
  | mSalt => exact .of_feed (fun e => { e with cnt := e.pwLen, stage := 9#5 }) h rfl
  | mCover =>
    by_cases hc : s.eng.cnt = 0
    · exact .of_setEng ((exec_mCover_exit hc).symm.trans h) (by simp [hc])
    · exact .of_feed (fun e => { e with cnt := e.cnt - min s.eng.cnt 64, stage := 9#5 })
        ((if_pos (Nat.pos_of_ne_zero hc)).symm.trans h) (by simp [Nat.pos_of_ne_zero hc])
  | mBits =>
    by_cases hl : s.eng.lsh = 0
    · exact .of_setEng ((exec_mBits_exit hl).symm.trans h) (by simp [hl])
    · replace h := (if_pos hl).symm.trans h
      split at h
      next hbit =>
        exact .of_feed (sp := .alt) (n := 64) (fun e => { e with lsh := e.lsh >>> 1, stage := 10#5 }) h
          (by simp [hl, hbit])
      next hbit => exact .of_feed (fun e => { e with lsh := e.lsh >>> 1, stage := 10#5 }) h (by simp [hl, hbit])
  | mFin => exact .of_digFinal (fun d e => { e with result := d, stage := 12#5 }) h rfl
  | pInit => exact .of_digStart (fun e => { e with cnt := e.pwLen, stage := 13#5 }) h rfl
  | pRep =>
    by_cases hc : s.eng.cnt = 0
    · exact .of_setEng ((exec_pRep_exit hc).symm.trans h) (by simp [hc])
    · exact .of_feed (fun e => { e with cnt := e.cnt - 1, stage := 13#5 }) ((if_pos (Nat.pos_of_ne_zero hc)).symm.trans h)
        (by simp [hc, Nat.pos_of_ne_zero hc])
  | pFin => exact .of_digFinal (fun d e => { e with dp := d, stage := 15#5 }) h rfl
  | pFill => exact .of_setEng (memWrite_next (show execPFill s = _ from h)).2 (by simp [Engine.store, opCode, encode])
  | sInit => exact .of_digStart (fun e => { e with cnt := 16 + e.result[0].toNat, stage := 17#5 }) h rfl
  | sRep =>
    by_cases hc : s.eng.cnt = 0
    · exact .of_setEng ((exec_sRep_exit hc).symm.trans h) (by simp [hc])
    · exact .of_feed (fun e => { e with cnt := e.cnt - 1, stage := 17#5 }) ((if_pos (Nat.pos_of_ne_zero hc)).symm.trans h)
        (by simp [hc, Nat.pos_of_ne_zero hc])
  | sFin => exact .of_digFinal (fun d e => { e with ds := d, stage := 19#5 }) h rfl
  | sFill =>
    exact .of_setEng (memWrite_next (memRead_next (show execSFill s = _ from h)).2).2
      (by simp [Engine.store, opCode, encode])
  | rInit => exact .of_digStart (fun e => { e with stage := 21#5 }) h rfl
  | rF1 =>
    change execRF1 s = _ at h
    unfold execRF1 at h
    split at h
    next hodd => exact .of_feed (fun e => { e with stage := 22#5 }) h (by simp [opCode, encode, hodd])
    next hodd =>
      exact .of_feed (sp := .result) (n := 64) (fun e => { e with stage := 22#5 }) h
        (by simp [opCode, encode, show s.eng.r[0] = false by simpa using hodd])
  | rF2 =>
    by_cases hr : s.eng.r.toNat % 3 = 0
    · exact .of_setEng ((exec_rF2_skip hr).symm.trans h) (by simp [opCode, encode, hr])
    · exact .of_feed (fun e => { e with stage := 23#5 }) ((if_pos hr).symm.trans h) (by simp [opCode, encode, hr])
  | rF3 =>
    by_cases hr : s.eng.r.toNat % 7 = 0
    · exact .of_setEng ((exec_rF3_skip hr).symm.trans h) (by simp [opCode, encode, hr])
    · exact .of_feed (fun e => { e with stage := 24#5 }) ((if_pos hr).symm.trans h) (by simp [opCode, encode, hr])
  | rF4 =>
    change execRF4 s = _ at h
    unfold execRF4 at h
    split at h
    next hodd =>
      exact .of_feed (sp := .result) (n := 64) (fun e => { e with stage := 25#5 }) h (by simp [opCode, encode, hodd])
    next hodd =>
      exact .of_feed (fun e => { e with stage := 25#5 }) h
        (by simp [opCode, encode, show s.eng.r[0] = false by simpa using hodd])
  | rFin =>
    by_cases hr : s.eng.r.toNat < 4999
    · exact .of_digFinal (fun d e => { e with result := d, r := s.eng.r + 1#13, stage := 20#5 })
        ((exec_rFin_next hr).symm.trans h) (by simp [hr])
    · exact .of_digFinal (fun d e => { e with result := d, stage := 26#5 })
        ((exec_rFin_last hr).symm.trans h) (by simp [hr])
  | ePrefix =>
    change execEPrefix s = _ at h
    unfold execEPrefix readSalt at h
    obtain ⟨-, h⟩ := memRead_next h
    obtain ⟨-, h⟩ := memWrite_next h
    obtain ⟨-, h⟩ := memWrite_next h
    obtain ⟨-, h⟩ := memWrite_next h
    simp only [State.setEng_eng, State.setEng_setEng, Engine.store] at h
    refine .of_setEng h ?_
    change _ = s.eng.written .ePrefix
    rw [Engine.written, Engine.outAfter_ePrefix, show s.eng.ctxAfter .ePrefix = s.eng.ctx by simp]
    rfl
  | eGroup =>
    by_cases hg : s.eng.g.toNat < 21
    · exact .of_setEng (memWrite_next ((if_pos hg).symm.trans h)).2 (by simp [Engine.store, hg])
    · exact .of_setEng ((exec_eGroup_exit (Nat.le_of_not_lt hg)).symm.trans h) (by simp [hg])
  | eLast => exact .of_setEng (memWrite_next (show execELast s = _ from h)).2 (by rfl)
  | _ => nomatch henc

end Sys2Proof

/-! ## The steps of the three agents: where `STAGE` goes, and what stays -/

namespace Sys2Proof

open Machine

/-! ### Where an operation leaves `STAGE` (10_state.md R26) -/

theorem opCode_of_decode {c : BitVec 5} {i : Instr} (hd : decodeStage5 c = .ok i) : opCode i = c := by
  rw [opCode, encode_of_decodeStage5 hd]

theorem Machine.Engine.afterOp_stage (e : Engine) (i : Instr) : (e.afterOp i).stage = e.stageAfter i := by
  unfold Engine.afterOp
  split <;> rfl

/-- `stageAfter` is the next-`STAGE` column of R26. -/
theorem Machine.Engine.stageAfter_toNat {e : Engine} {i : Instr} (hd : decodeStage5 e.stage = .ok i) :
    (e.stageAfter i).toNat = e.nextStage := by
  rw [Engine.nextStage, ← opCode_of_decode hd]
  cases i with
  | mCover | mBits | pRep | sRep | rFin | eGroup => exact apply_ite BitVec.toNat _ _ _
  | _ => rfl

/-- The next code is the one after, or the same in a loop, or that of the next round. -/
theorem Machine.Engine.nextStage_cases (e : Engine) :
    e.nextStage = e.stage.toNat + 1 ∨ (e.nextStage = e.stage.toNat ∧ e.stage.toNat ∈ [9, 10, 13, 17, 27]) ∨
      (e.stage.toNat = 25 ∧ e.nextStage = 20) := by
  unfold Engine.nextStage
  split
  case h_7 => exact .inl rfl
  all_goals
    next hst =>
    rw [hst]
    split_ifs <;> decide

theorem Machine.Engine.nextStage_le {e : Engine} (hb : e.isBusy = true) : e.nextStage ≤ 29 := by
  have hle := (e.isBusy_iff.1 hb).2
  rcases e.nextStage_cases with hn | ⟨hn, -⟩ | ⟨-, hn⟩ <;> omega

/-- A turn of the sequencer: nothing where no operation is selected, else the operation's effect. -/
theorem seqStep_next {s t : State} (h : seqStep s = .next t) :
    (s.eng.isBusy = false ∧ t = s) ∨ ∃ i, decodeStage5 s.eng.stage = .ok i ∧ SeqEffect i s t := by
  unfold seqStep at h
  split at h
  next i hd => exact .inr ⟨i, hd, seqEffect_of_exec hd h⟩
  next hd =>
    cases h
    exact .inl ⟨by rw [isBusy_eq_decodes, hd]; rfl, rfl⟩

theorem SeqEffect.stage {i : Instr} {s t : State} (h : SeqEffect i s t) (hd : decodeStage5 s.eng.stage = .ok i) :
    t.eng.stage = 30#5 ∨ t.eng.stage.toNat = s.eng.nextStage := by
  rcases h.engine with h | h
  · exact .inl (by rw [h]; rfl)
  · exact .inr (by rw [h, Engine.afterOp_stage, Engine.stageAfter_toNat hd])

/-- Settles O35: an operation's effect goes to the code of the table, and the table goes back from 25 to 20 only. -/
theorem stageTransitions : Obligations.StageTransitions := by
  intro s t hbusy h h30
  rcases seqStep_next h with ⟨hidle, -⟩ | ⟨i, hd, heff⟩
  · rw [hbusy] at hidle
    cases hidle
  · have hnext := (heff.stage hd).resolve_left h30
    refine ⟨hnext, fun hlt => ?_⟩
    rw [hnext] at hlt
    rcases s.eng.nextStage_cases with hn | ⟨hn, -⟩ | ⟨h25, h20⟩
    · omega
    · omega
    · exact ⟨BitVec.eq_of_toNat_eq h25, BitVec.eq_of_toNat_eq (hnext.trans h20)⟩

/-! ### Whose step it was -/

/-- A step is one agent's, in the state whose agenda has lost its first entry. -/
theorem step_next {s t : State} (h : step s = .next t) :
    (s.agenda.headD .seqTurn = .seqTurn ∧ seqStep s.popEvent = .next t) ∨
      (∃ w, s.agenda.head? = some (.hostCmd w) ∧ hostCmd w s.popEvent = .next t) ∨
      (s.agenda.head? = some .hardReset ∧ t = s.popEvent.clearEngine) := by
  unfold step State.nextEvent at h
  cases hag : s.agenda with
  | nil =>
    rw [hag] at h
    exact .inl ⟨rfl, h⟩
  | cons ev rest =>
    rw [hag] at h
    cases ev with
    | seqTurn => exact .inl ⟨rfl, h⟩
    | hostCmd w => exact .inr (.inl ⟨w, rfl, h⟩)
    | hardReset =>
      cases h
      exact .inr (.inr ⟨rfl, rfl⟩)

/-- No operation leads to the reserved code (R27). -/
theorem Machine.Engine.afterOp_stage_ne_31 {e : Engine} {i : Instr} (hd : decodeStage5 e.stage = .ok i) :
    (e.afterOp i).stage ≠ 31#5 := by
  intro h31
  have hnext := Engine.stageAfter_toNat hd
  rw [← Engine.afterOp_stage, h31] at hnext
  have hle := Engine.nextStage_le (isBusy_of_decode hd)
  rw [← hnext] at hle
  exact absurd hle (by decide)

/-- The engine after a step, by whose step it was. -/
theorem step_engine {s t : State} (h : step s = .next t) :
    t.cfg = s.cfg ∧
    (t.eng = s.eng ∨
      (s.agenda.headD .seqTurn = .seqTurn ∧
        ∃ i, decodeStage5 s.eng.stage = .ok i ∧ (t.eng = s.eng.faulted 2#2 ∨ t.eng = s.eng.afterOp i)) ∨
      (∃ w, s.agenda.head? = some (.hostCmd w) ∧ HostEffect s.cfg s.eng w t.eng) ∨
      (s.agenda.head? = some .hardReset ∧ t.eng = Engine.reset)) := by
  rcases step_next h with ⟨hag, h⟩ | ⟨w, hag, h⟩ | ⟨hag, rfl⟩
  · rcases seqStep_next h with ⟨-, rfl⟩ | ⟨i, hd, heff⟩
    · exact ⟨rfl, .inl rfl⟩
    · exact ⟨by rw [heff.frame]; rfl, .inr (.inl ⟨hag, i, hd, heff.engine⟩)⟩
  · have hstep := hostStep_of_hostCmd h
    exact ⟨by rw [hstep.frame]; rfl, .inr (.inr (.inl ⟨w, hag, hstep.engine⟩))⟩
  · exact ⟨rfl, .inr (.inr (.inr ⟨hag, rfl⟩))⟩

theorem Machine.Engine.acceptsClr_iff (e : Engine) :
    e.acceptsClr = true ↔ e.stage = 0#5 ∨ e.stage = 29#5 ∨ e.stage = 30#5 := by
  simp only [Engine.acceptsClr, Bool.or_eq_true, Engine.isIdle_iff, Engine.isDone_iff, Engine.isFault_iff, or_assoc]

theorem Machine.Engine.afterOp_of_ne (e : Engine) {i : Instr} (hi : i ≠ .eLast) : e.afterOp i = e.written i := by
  unfold Engine.afterOp
  split
  next => exact absurd rfl hi
  next => rfl

/-- Settles O36, agent by agent. -/
theorem stageWriters : Obligations.StageWriters := by
  intro s t h
  rcases (step_engine h).2 with h | ⟨hag, i, hd, h⟩ | ⟨w, hag, heff⟩ | ⟨hag, h⟩
  · rw [h]
    exact ⟨.inl rfl, id⟩
  · have hbusy := isBusy_of_decode hd
    rcases h with h | h
    · exact ⟨.inr (.inl ⟨hag, hbusy, .inl (by rw [h]; rfl)⟩), fun h31 => by rw [h] at h31; cases h31⟩
    · refine ⟨.inr (.inl ⟨hag, hbusy, .inr ?_⟩), fun h31 => absurd (h ▸ h31) (Engine.afterOp_stage_ne_31 hd)⟩
      rw [h, Engine.afterOp_stage, Engine.stageAfter_toNat hd]
  · generalize he : t.eng = e' at heff
    cases heff with
    | answered | rejected | pushedPw | pushedSalt | popped => exact ⟨.inl rfl, id⟩
    | cleared hacc =>
      refine ⟨?_, fun h31 => nomatch h31⟩
      rcases s.eng.acceptsClr_iff.1 hacc with h0 | hend
      · exact .inl h0.symm
      · exact .inr (.inr (.inr (.inl ⟨hag, by simpa using hend, rfl⟩)))
    | overflowed b hidle hfull =>
      exact ⟨.inr (.inr (.inr (.inr (.inr ⟨b, hag, hidle, hfull, rfl⟩)))), fun h31 => nomatch h31⟩
    | started hidle => exact ⟨.inr (.inr (.inl ⟨hag, hidle, rfl⟩)), fun h31 => nomatch h31⟩
  · rw [h]
    exact ⟨.inr (.inr (.inr (.inr (.inl ⟨hag, rfl⟩)))), fun h31 => nomatch h31⟩

/-- Settles O39: the inputs are written in `IDLE`, by what enters `FAULT` or `IDLE`, and by `E_LAST`. -/
theorem parametersAndInputsFixed : Obligations.ParametersAndInputsFixed := by
  intro s t h
  obtain ⟨hcfg, heng⟩ := step_engine h
  refine ⟨hcfg, fun hbusy hbusy' => ?_⟩
  have hpos := (s.eng.isBusy_iff.1 hbusy).1
  have hidle (h0 : s.eng.stage = 0#5) : False := by
    rw [h0] at hpos
    exact absurd hpos (by decide)
  rcases heng with h | ⟨-, i, hd, h | h⟩ | ⟨w, -, heff⟩ | ⟨-, h⟩
  · rw [h]
    exact ⟨rfl, rfl, rfl, rfl⟩
  · rw [h] at hbusy'
    exact absurd hbusy' Bool.false_ne_true
  · by_cases hi : i = .eLast
    · rw [h, hi] at hbusy'
      exact absurd hbusy' Bool.false_ne_true
    · rw [h, Engine.afterOp_of_ne _ hi]
      exact ⟨rfl, rfl, rfl, rfl⟩
  · generalize t.eng = e' at heff hbusy'
    cases heff with
    | answered | rejected | popped => exact ⟨rfl, rfl, rfl, rfl⟩
    | cleared | overflowed => exact absurd hbusy' Bool.false_ne_true
    | pushedPw _ h0 | pushedSalt _ h0 | started h0 => exact (hidle h0).elim
  · rw [h] at hbusy'
    exact absurd hbusy' Bool.false_ne_true

/-! ### What an operation leaves alone (10_state.md R23, R28; 20_memory.md R60, R64) -/

namespace Machine

variable {e : Engine} {i : Instr}

theorem Engine.cntAfter_of_not_mem (hi : i ∉ [.mSalt, .mCover, .pInit, .pRep, .sInit, .sRep]) : e.cntAfter i = e.cnt := by
  unfold Engine.cntAfter
  split <;> simp_all

theorem Engine.lshAfter_of_not_mem (hi : i ∉ [.mCover, .mBits]) : e.lshAfter i = e.lsh := by
  unfold Engine.lshAfter
  split <;> simp_all

theorem Engine.rAfter_of_not_mem (hi : i ∉ [.sFill, .rFin]) : e.rAfter i = e.r := by
  unfold Engine.rAfter
  split <;> simp_all

theorem Engine.gAfter_of_not_mem (hi : i ∉ [.ePrefix, .eGroup, .eLast]) : e.gAfter i = e.g := by
  unfold Engine.gAfter
  split <;> simp_all

theorem Engine.outLenAfter_of_not_mem (hi : i ∉ [.ePrefix, .eGroup, .eLast]) : e.outLenAfter i = e.outLen := by
  unfold Engine.outLenAfter
  split <;> simp_all

theorem Engine.outAfter_of_not_mem (hi : i ∉ [.ePrefix, .eGroup, .eLast]) : e.outAfter i = e.out := by
  unfold Engine.outAfter
  split <;> simp_all

theorem Engine.fedBytes_of_not_issues (h : ¬issuesPortOp i e) : e.fedBytes i = [] := by
  unfold issuesPortOp at h
  unfold Engine.fedBytes
  split <;> simp_all

theorem Engine.ctxAfter_of_not_issues (h : ¬issuesPortOp i e) : e.ctxAfter i = e.ctx := by
  have hfed := Engine.fedBytes_of_not_issues h
  unfold issuesPortOp at h
  unfold Engine.ctxAfter
  split <;> simp_all

/-- A byte that a store does not reach. -/
theorem Memory.read_writeRange_of_not_inTarget (m : Memory) {sp : Space} {off k : Nat} {v : List Byte}
    (h : ¬inTarget (some (sp, off, v.length)) sp k) : (m.writeRange off v).read k = m.read k :=
  Memory.read_writeRange_other m off v fun hk => h ⟨off, v.length, rfl, hk⟩

/-- The buffers change only where the operation stores (20_memory.md R64). -/
theorem Engine.byteAt_written {sp : Space} {k : Nat} (hi : i ≠ .eLast) (hsp : sp ∈ [.pw, .salt, .p, .s, .out])
    (h : ¬inTarget (storeTarget i e) sp k) : (e.written i).byteAt sp k = e.byteAt sp k := by
  cases sp with
  | pw | salt => rfl
  | p =>
    by_cases hp : i = .pFill
    · subst hp
      exact Memory.read_writeRange_of_not_inTarget _ (by rwa [stretch_length])
    · simp only [Engine.byteAt, Engine.written, if_neg hp]
  | s =>
    by_cases hs : i = .sFill
    · subst hs
      exact Memory.read_writeRange_of_not_inTarget _ (by rwa [Engine.bytes_length])
    · simp only [Engine.byteAt, Engine.written, if_neg hs]
  | out =>
    change (e.outAfter i).read k = e.out.read k
    unfold Engine.outAfter
    split
    next =>
      have hlen : (tagChars ++ e.saltBytes ++ [dollar]).length = 4 + e.saltLen.toNat := by
        simp only [List.length_append, Engine.saltBytes_length, tagChars, List.length_cons, List.length_nil]
        omega
      exact Memory.read_writeRange_of_not_inTarget _ (by rwa [hlen])
    next =>
      split
      · exact Memory.read_writeRange_of_not_inTarget _ (by rwa [enc_length])
      · rfl
    next => exact absurd rfl hi
    next => rfl
  | alt | result | dp | ds => simp at hsp

theorem Engine.afterOp_errors : (e.afterOp i).cmdErr = e.cmdErr ∧ (e.afterOp i).rejCode = e.rejCode ∧
    (e.afterOp i).errCode = e.errCode := by
  unfold Engine.afterOp
  split <;> exact ⟨rfl, rfl, rfl⟩

theorem Engine.afterOp_outPtr (hi : i ≠ .ePrefix) : (e.afterOp i).outPtr = e.outPtr := by
  unfold Engine.afterOp
  split
  next => rfl
  next => exact if_neg hi

end Machine

/-- Settles O53: the effect of an operation, and what each register's function leaves alone. -/
theorem frameSequencer : Obligations.FrameSequencer := by
  intro c i s t hd h h30
  have heff := seqEffect_of_exec hd h
  have heng : t.eng = s.eng.afterOp i := heff.engine.resolve_left fun h => h30 (by rw [h]; rfl)
  have hframe := heff.frame
  obtain ⟨hcmd, hrej, herr⟩ := s.eng.afterOp_errors (i := i)
  rw [← heng] at hcmd hrej herr
  refine ⟨hframe, hcmd, hrej, herr, fun hi => by rw [heng, Engine.afterOp_outPtr hi], fun hi => ?_, fun hi k hk => ?_,
    fun hi => ?_⟩
  · rw [heng, Engine.afterOp_of_ne _ fun h => hi (by simp [h])]
    exact ⟨Engine.outLenAfter_of_not_mem hi, Engine.gAfter_of_not_mem hi⟩
  · rw [heng, hi]
    exact Memory.read_writeRange_other _ _ _ (by rw [enc_length]; omega)
  · rw [heng, Engine.afterOp_of_ne _ hi]
    exact ⟨rfl, rfl, rfl, rfl, fun sp k hsp => Engine.byteAt_written hi hsp, fun h => if_neg h, fun h => if_neg h,
      fun h => if_neg h, fun h => if_neg h, Engine.cntAfter_of_not_mem, Engine.lshAfter_of_not_mem,
      Engine.rAfter_of_not_mem, Engine.ctxAfter_of_not_issues⟩

end Sys2Proof

/-! ## The sequencer does not depend on the error registers and the host's side -/

namespace Sys2Proof

open Machine

/-- The engine with the error registers of another one. -/
def Machine.Engine.withErrors (e e' : Engine) : Engine := { e with cmdErr := e'.cmdErr, rejCode := e'.rejCode }

/-- The state with everything from `u` that `SameRun` leaves open: the two error registers, and what stands at the host's
port. -/
def Machine.State.withHostSide (u s : State) : State :=
  { s with eng := s.eng.withErrors u.eng, agenda := u.agenda, responses := u.responses, digReply := u.digReply }

/-- A function of the state carried over to outcomes. -/
def mapNext (f : State → State) : Out → Out
  | .next s => .next (f s)
  | .fault r => .fault r
  | .refused r => .refused r

theorem mapNext_eq_next {f : State → State} {o : Out} {t : State} (h : o = .next t) : mapNext f o = .next (f t) := by
  rw [h]
  rfl

theorem eq_withHostSide_of_sameRun {s t : State} (h : SameRun s t) : t = t.withHostSide s := by
  obtain ⟨hdata, hcfg, hans, hcount⟩ := h
  have heng : t.eng = s.eng.withErrors t.eng := by
    calc t.eng = t.eng.dataPath.withErrors t.eng := rfl
      _ = s.eng.dataPath.withErrors t.eng := by rw [hdata]
      _ = s.eng.withErrors t.eng := rfl
  calc t = { t with eng := s.eng.withErrors t.eng, cfg := s.cfg, answers := s.answers, digCount := s.digCount } := by
        rw [← heng, ← hcfg, ← hans, ← hcount]
    _ = t.withHostSide s := rfl

theorem sameRun_withHostSide (u s : State) : SameRun s (u.withHostSide s) := ⟨rfl, rfl, rfl, rfl⟩

/-! ### The shared operations commute with the change of the host's side -/

section
variable (u : State) {s : State}

theorem bytes_withHostSide (sp : Space) (off n : Nat) : (u.withHostSide s).eng.bytes sp off n = s.eng.bytes sp off n := by
  cases sp <;> rfl

theorem store_withHostSide (sp : Space) (off : Nat) (v : List Byte) :
    (u.withHostSide s).setEng ((u.withHostSide s).eng.store sp off v) =
      u.withHostSide (s.setEng (s.eng.store sp off v)) := by
  cases sp <;> rfl

theorem ite_withHostSide {c : Prop} [Decidable c] {a b a' b' : Out} (ha : a' = mapNext u.withHostSide a)
    (hb : b' = mapNext u.withHostSide b) : ite c a' b' = mapNext u.withHostSide (ite c a b) := by
  rw [ha, hb, apply_ite (mapNext u.withHostSide)]

theorem memRead_withHostSide {sp : Space} {off n : Nat} {k k' : List Byte → Out}
    (hk : ∀ x, k' x = mapNext u.withHostSide (k x)) :
    memRead sp off n (u.withHostSide s) k' = mapNext u.withHostSide (memRead sp off n s k) := by
  rw [memRead, memRead, bytes_withHostSide]
  exact ite_withHostSide u (hk _) rfl

theorem memWrite_withHostSide {sp : Space} {off : Nat} {v : List Byte} {k k' : State → Out}
    (hk : ∀ t, k' (u.withHostSide t) = mapNext u.withHostSide (k t)) :
    memWrite sp off v (u.withHostSide s) k' = mapNext u.withHostSide (memWrite sp off v s k) := by
  rw [memWrite, memWrite, store_withHostSide]
  exact ite_withHostSide u (hk _) rfl

theorem digAnswered_withHostSide {k k' : State → Out}
    (hk : k' (u.withHostSide s.drawAnswer) = mapNext u.withHostSide (k s.drawAnswer)) :
    digAnswered (u.withHostSide s) k' = mapNext u.withHostSide (digAnswered s k) := by
  rw [digAnswered, digAnswered]
  exact ite_withHostSide u rfl hk

/-! Behind a digest-port operation stands one write `f` of the engine, which does not look at the error registers. -/

theorem setEng_withHostSide {f : Engine → Engine} (hf : ∀ e, f (e.withErrors u.eng) = (f e).withErrors u.eng)
    (t : State) :
    (.next ((u.withHostSide t).setEng (f (u.withHostSide t).eng)) : Out) =
      mapNext u.withHostSide (.next (t.setEng (f t.eng))) :=
  congrArg (fun e => Host.Outcome.next ((u.withHostSide t).setEng e)) (hf t.eng)

theorem digStart_withHostSide (f : Engine → Engine) (hf : ∀ e, f (e.withErrors u.eng) = (f e).withErrors u.eng) :
    (digStart (u.withHostSide s) fun t => .next (t.setEng (f t.eng))) =
      mapNext u.withHostSide (digStart s fun t => .next (t.setEng (f t.eng))) :=
  digAnswered_withHostSide u (setEng_withHostSide u hf (s.drawAnswer.setCtx _))

theorem feed_withHostSide (sp : Space) (n : Nat) (f : Engine → Engine)
    (hf : ∀ e, f (e.withErrors u.eng) = (f e).withErrors u.eng) :
    (memRead sp 0 n (u.withHostSide s) fun x => digFeed x (u.withHostSide s) fun t => .next (t.setEng (f t.eng))) =
      mapNext u.withHostSide (memRead sp 0 n s fun x => digFeed x s fun t => .next (t.setEng (f t.eng))) := by
  refine memRead_withHostSide u fun x => ?_
  rw [digFeed, digFeed]
  exact ite_withHostSide u (digAnswered_withHostSide u (setEng_withHostSide u hf (s.drawAnswer.setCtx _))) rfl

theorem digFinal_withHostSide (f : Digest → Engine → Engine)
    (hf : ∀ d e, f d (e.withErrors u.eng) = (f d e).withErrors u.eng) :
    (digFinal (u.withHostSide s) fun d t => .next (t.setEng (f d t.eng))) =
      mapNext u.withHostSide (digFinal s fun d t => .next (t.setEng (f d t.eng))) := by
  rw [digFinal, digFinal]
  exact ite_withHostSide u (digAnswered_withHostSide u (setEng_withHostSide u (hf _) (s.drawAnswer.setCtx _))) rfl

/-- No sequencer operation looks at the error registers or the host's side, and none writes them. -/
theorem exec_withHostSide {c : BitVec 5} {i : Instr} (hd : decodeStage5 c = .ok i) (s : State) :
    exec i (u.withHostSide s) = mapNext u.withHostSide (exec i s) := by
  have henc := encode_of_decodeStage5 hd
  cases i with
  | aInit => exact digStart_withHostSide u (fun e => { e with stage := 2#5 }) fun _ => rfl
  | aPw1 => exact feed_withHostSide u .pw s.eng.pwLen (fun e => { e with stage := 3#5 }) fun _ => rfl
  | aSalt => exact feed_withHostSide u .salt s.eng.saltLen.toNat (fun e => { e with stage := 4#5 }) fun _ => rfl
  | aPw2 => exact feed_withHostSide u .pw s.eng.pwLen (fun e => { e with stage := 5#5 }) fun _ => rfl
  | aFin => exact digFinal_withHostSide u (fun d e => { e with alt := d, stage := 6#5 }) fun _ _ => rfl
  | mInit => exact digStart_withHostSide u (fun e => { e with stage := 7#5 }) fun _ => rfl
  | mPw => exact feed_withHostSide u .pw s.eng.pwLen (fun e => { e with stage := 8#5 }) fun _ => rfl
  | mSalt =>
    exact feed_withHostSide u .salt s.eng.saltLen.toNat (fun e => { e with cnt := e.pwLen, stage := 9#5 }) fun _ => rfl
  | mCover =>
    change ite _ _ _ = mapNext _ (ite _ _ _)
    exact ite_withHostSide u (feed_withHostSide u .alt (min s.eng.cnt 64)
      (fun e => { e with cnt := e.cnt - min s.eng.cnt 64, stage := 9#5 }) fun _ => rfl) rfl
  | mBits =>
    change ite _ (ite _ _ _) _ = mapNext _ (ite _ (ite _ _ _) _)
    exact ite_withHostSide u
      (ite_withHostSide u (feed_withHostSide u .alt 64 (fun e => { e with lsh := e.lsh >>> 1, stage := 10#5 }) fun _ => rfl)
        (feed_withHostSide u .pw s.eng.pwLen (fun e => { e with lsh := e.lsh >>> 1, stage := 10#5 }) fun _ => rfl)) rfl
  | mFin => exact digFinal_withHostSide u (fun d e => { e with result := d, stage := 12#5 }) fun _ _ => rfl
  | pInit => exact digStart_withHostSide u (fun e => { e with cnt := e.pwLen, stage := 13#5 }) fun _ => rfl
  | pRep =>
    change ite _ _ _ = mapNext _ (ite _ _ _)
    exact ite_withHostSide u (feed_withHostSide u .pw s.eng.pwLen (fun e => { e with cnt := e.cnt - 1, stage := 13#5 })
      fun _ => rfl) rfl
  | pFin => exact digFinal_withHostSide u (fun d e => { e with dp := d, stage := 15#5 }) fun _ _ => rfl
  | pFill =>
    change execPFill (u.withHostSide s) = mapNext _ (execPFill s)
    unfold execPFill
    exact memWrite_withHostSide u fun _ => rfl
  | sInit =>
    exact digStart_withHostSide u (fun e => { e with cnt := 16 + e.result[0].toNat, stage := 17#5 }) fun _ => rfl
  | sRep =>
    change ite _ _ _ = mapNext _ (ite _ _ _)
    exact ite_withHostSide u (feed_withHostSide u .salt s.eng.saltLen.toNat
      (fun e => { e with cnt := e.cnt - 1, stage := 17#5 }) fun _ => rfl) rfl
  | sFin => exact digFinal_withHostSide u (fun d e => { e with ds := d, stage := 19#5 }) fun _ _ => rfl
  | sFill =>
    change execSFill (u.withHostSide s) = mapNext _ (execSFill s)
    unfold execSFill
    exact memRead_withHostSide u fun _ => memWrite_withHostSide u fun _ => rfl
  | rInit => exact digStart_withHostSide u (fun e => { e with stage := 21#5 }) fun _ => rfl
  | rF1 =>
    change ite _ _ _ = mapNext _ (ite _ _ _)
    exact ite_withHostSide u (feed_withHostSide u .p s.eng.pwLen (fun e => { e with stage := 22#5 }) fun _ => rfl)
      (feed_withHostSide u .result 64 (fun e => { e with stage := 22#5 }) fun _ => rfl)
  | rF2 =>
    change ite _ _ _ = mapNext _ (ite _ _ _)
    exact ite_withHostSide u
      (feed_withHostSide u .s s.eng.saltLen.toNat (fun e => { e with stage := 23#5 }) fun _ => rfl) rfl
  | rF3 =>
    change ite _ _ _ = mapNext _ (ite _ _ _)
    exact ite_withHostSide u (feed_withHostSide u .p s.eng.pwLen (fun e => { e with stage := 24#5 }) fun _ => rfl) rfl
  | rF4 =>
    change ite _ _ _ = mapNext _ (ite _ _ _)
    exact ite_withHostSide u (feed_withHostSide u .result 64 (fun e => { e with stage := 25#5 }) fun _ => rfl)
      (feed_withHostSide u .p s.eng.pwLen (fun e => { e with stage := 25#5 }) fun _ => rfl)
  | rFin =>
    by_cases hr : s.eng.r.toNat < 4999
    · rw [exec_rFin_next hr, exec_rFin_next (s := u.withHostSide s) hr]
      exact digFinal_withHostSide u (fun d e => { e with result := d, r := s.eng.r + 1#13, stage := 20#5 }) fun _ _ => rfl
    · rw [exec_rFin_last hr, exec_rFin_last (s := u.withHostSide s) hr]
      exact digFinal_withHostSide u (fun d e => { e with result := d, stage := 26#5 }) fun _ _ => rfl
  | ePrefix =>
    change execEPrefix (u.withHostSide s) = mapNext _ (execEPrefix s)
    unfold execEPrefix
    exact memRead_withHostSide u fun _ => memWrite_withHostSide u fun _ => memWrite_withHostSide u fun _ =>
      memWrite_withHostSide u fun _ => rfl
  | eGroup =>
    change ite _ _ _ = mapNext _ (ite _ _ _)
    exact ite_withHostSide u (memWrite_withHostSide u fun _ => rfl) rfl
  | eLast =>
    change execELast (u.withHostSide s) = mapNext _ (execELast s)
    unfold execELast
    exact memWrite_withHostSide u fun _ => rfl
  | _ => nomatch henc

theorem seqStep_withHostSide (s : State) : seqStep (u.withHostSide s) = mapNext u.withHostSide (seqStep s) := by
  cases hd : decodeStage5 s.eng.stage with
  | ok i => rw [seqStep_of_decode hd, seqStep_of_decode (s := u.withHostSide s) hd, exec_withHostSide u hd]
  | error err =>
    have hidle : s.eng.isBusy = false := by
      rw [isBusy_eq_decodes, hd]
      rfl
    rw [seqStep_of_not_busy hidle, seqStep_of_not_busy (s := u.withHostSide s) hidle]
    rfl

end

/-- Settles O42: the step commutes with a change of what `SameRun` leaves open. -/
theorem runIgnoresErrorRegisters : Obligations.RunIgnoresErrorRegisters := by
  intro s t s' hrun h
  rw [eq_withHostSide_of_sameRun hrun, seqStep_withHostSide, mapNext_eq_next h]
  exact ⟨_, rfl, sameRun_withHostSide t s', rfl, rfl, rfl⟩

end Sys2Proof

/-! ## The invariant of R38 under the host's commands, fault entry and reset -/

namespace Sys2Proof

open Machine

namespace Machine

variable {p : Params} {e : Engine}

theorem RejCause.code_ne (c : RejCause) : c.code ≠ 0#3 ∧ c.code ≠ 6#3 := by
  cases c <;> decide

theorem FaultCause.code_eq (c : FaultCause) : c.code = 1#2 ∨ c.code = 2#2 := by
  cases c <;> decide

/-- After fault entry the invariant holds, if the two registers that are kept (60_exceptions.md R227) meet it. -/
theorem Engine.faultEntry_inv (c : FaultCause) (hrej : e.rejCode ≠ 6#3) (hset : e.cmdErr = false ↔ e.rejCode = 0#3) :
    (e.faultEntry c).Inv p where
  bounded := { (Engine.reset_inv p).bounded with stage_le := by simp }
  memForm := { (Engine.reset_inv p).memForm with }
  zeroTails := { (Engine.reset_inv p).zeroTails with }
  ctxByStage := ⟨by simp [openStages], fun _ => rfl⟩
  filled := ⟨fun _ h => absurd h (by simp), fun _ h => absurd h (by simp)⟩
  quiescent := ⟨fun h => absurd h (by simp), fun h => absurd h (by simp), fun _ => rfl⟩
  outProgress := ⟨fun h => absurd h (by simp), fun h => absurd h (by simp), fun h => absurd h (by simp),
    fun h => absurd h (by simp)⟩
  errCodes := ⟨hrej, hset, fun h => absurd rfl h, fun _ => c.code_eq⟩

/-- A rejection writes nothing but the error registers (R223). -/
theorem Engine.Inv.noteRejection (h : e.Inv p) (c : RejCause) : (e.noteRejection c).Inv p where
  bounded := { h.bounded with }
  memForm := { h.memForm with }
  zeroTails := { h.zeroTails with }
  ctxByStage := { h.ctxByStage with }
  filled := { h.filled with }
  quiescent := ⟨fun h0 => congrArg (·.noteRejection c) (h.quiescent.idle h0),
    fun h0 => congrArg (·.noteRejection c) (h.quiescent.done h0),
    fun h0 => congrArg (·.noteRejection c) (h.quiescent.fault h0)⟩
  outProgress := { h.outProgress with }
  errCodes := { h.errCodes with rej := c.code_ne.2, rejSet := ⟨(nomatch ·), fun h => absurd h c.code_ne.1⟩ }

/-- An accepted `PUSHP` (46_host_commands.md R183). -/
theorem Engine.Inv.pushedPw (h : e.Inv p) (hidle : e.stage = 0#5) (hlen : e.pwLen + 1 ≤ p.pwMax) (b : Byte) :
    Engine.Inv p { e with pw := e.pw.writeRange e.pwLen [b], pwLen := e.pwLen + 1 } where
  bounded := { h.bounded with pwLen_le := hlen }
  memForm := { h.memForm with pw := Memory.writeRange_wf h.memForm.pw _ _ }
  zeroTails :=
    { h.zeroTails with
      pw := fun k (hk : e.pwLen + 1 ≤ k) => by
        rw [Memory.read_writeRange_other _ _ _ (by simp only [List.length_cons, List.length_nil]; omega)]
        exact h.zeroTails.pw k (Nat.le_of_succ_le hk)
      pBuf := fun k hk => h.zeroTails.pBuf k (Nat.le_of_succ_le hk) }
  ctxByStage := { h.ctxByStage with }
  filled := ⟨fun h16 => absurd h16 (by simp [hidle]), fun h20 => absurd h20 (by simp [hidle])⟩
  quiescent := ⟨fun h0 => congrArg (fun e' : Engine =>
      { e' with pw := e.pw.writeRange e.pwLen [b], pwLen := e.pwLen + 1 }) (h.quiescent.idle h0),
    fun h0 => absurd (hidle.symm.trans h0) (by decide), fun h0 => absurd (hidle.symm.trans h0) (by decide)⟩
  outProgress := { h.outProgress with }
  errCodes := { h.errCodes with }

/-- An accepted `PUSHS` (R184). -/
theorem Engine.Inv.pushedSalt (h : e.Inv p) (hidle : e.stage = 0#5) (hlen : e.saltLen.toNat < 16) (b : Byte) :
    Engine.Inv p { e with salt := e.salt.writeRange e.saltLen.toNat [b], saltLen := e.saltLen + 1#5 } := by
  have hnext : (e.saltLen + 1#5).toNat = e.saltLen.toNat + 1 := by
    rw [BitVec.toNat_add, BitVec.toNat_ofNat]
    omega
  exact {
    bounded := { h.bounded with saltLen_le := by rw [hnext]; exact hlen }
    memForm := { h.memForm with salt := Memory.writeRange_wf h.memForm.salt _ _ }
    zeroTails :=
      { h.zeroTails with
        salt := fun k (hk : (e.saltLen + 1#5).toNat ≤ k) => by
          rw [hnext] at hk
          rw [Memory.read_writeRange_other _ _ _ (by simp only [List.length_cons, List.length_nil]; omega)]
          exact h.zeroTails.salt k (Nat.le_of_succ_le hk)
        sBuf := fun k (hk : (e.saltLen + 1#5).toNat ≤ k) => h.zeroTails.sBuf k (by omega) }
    ctxByStage := { h.ctxByStage with }
    filled := ⟨fun h16 => absurd h16 (by simp [hidle]), fun h20 => absurd h20 (by simp [hidle])⟩
    quiescent := ⟨fun h0 => congrArg (fun e' : Engine =>
        { e' with salt := e.salt.writeRange e.saltLen.toNat [b], saltLen := e.saltLen + 1#5 }) (h.quiescent.idle h0),
      fun h0 => absurd (hidle.symm.trans h0) (by decide), fun h0 => absurd (hidle.symm.trans h0) (by decide)⟩
    outProgress := ⟨h.outProgress.before, fun h0 => absurd (hidle.symm.trans h0) (by decide),
      fun h0 => absurd (hidle.symm.trans h0) (by decide), fun h0 => absurd (hidle.symm.trans h0) (by decide)⟩
    errCodes := { h.errCodes with } }

/-- An accepted `START` (R185). -/
theorem Engine.Inv.started (h : e.Inv p) (hidle : e.stage = 0#5) : Engine.Inv p { e with stage := 1#5 } where
  bounded := { h.bounded with stage_le := by simp }
  memForm := { h.memForm with }
  zeroTails := { h.zeroTails with }
  ctxByStage := { h.ctxByStage with open_iff := h.ctxByStage.open_iff.trans (by simp [hidle, openStages]) }
  filled := ⟨fun h16 => absurd h16 (by simp), fun h20 => absurd h20 (by simp)⟩
  quiescent := ⟨fun h0 => absurd h0 (by simp), fun h0 => absurd h0 (by simp), fun h0 => absurd h0 (by simp)⟩
  outProgress := ⟨fun _ => h.outProgress.before (by simp [hidle]), fun h0 => absurd h0 (by simp),
    fun h0 => absurd h0 (by simp), fun h0 => absurd h0 (by simp)⟩
  errCodes := { h.errCodes with
    err := fun _ => h.errCodes.err (by simp [hidle])
    errFault := fun h0 => absurd h0 (by simp) }

/-- A `POPC` that finds a byte (R186). -/
theorem Engine.Inv.popped (h : e.Inv p) (hdone : e.stage = 29#5) (hne : e.outPtr ≠ e.outLen) :
    Engine.Inv p { e with outPtr := e.outPtr + 1#7 } where
  bounded := { h.bounded with
    outPtr_le := by
      have hle := h.bounded.outPtr_le
      have hne : e.outPtr.toNat ≠ e.outLen.toNat := fun heq => hne (BitVec.eq_of_toNat_eq heq)
      change (e.outPtr + 1#7).toNat ≤ e.outLen.toNat
      rw [BitVec.toNat_add, BitVec.toNat_ofNat]
      omega }
  memForm := { h.memForm with }
  zeroTails := { h.zeroTails with }
  ctxByStage := { h.ctxByStage with }
  filled := { h.filled with }
  quiescent := ⟨fun h0 => absurd (hdone.symm.trans h0) (by decide),
    fun h0 => congrArg (fun e' : Engine => { e' with outPtr := e.outPtr + 1#7 }) (h.quiescent.done h0),
    fun h0 => absurd (hdone.symm.trans h0) (by decide)⟩
  outProgress := ⟨fun h26 => absurd h26 (by simp [hdone]), fun h0 => absurd (hdone.symm.trans h0) (by decide),
    fun h0 => absurd (hdone.symm.trans h0) (by decide), h.outProgress.done⟩
  errCodes := { h.errCodes with }

end Machine

/-- Whatever a command word makes of an engine that meets the invariant meets it. -/
theorem HostEffect.inv {p : Params} {e e' : Engine} {w : Word16} (heff : HostEffect p e w e') (h : e.Inv p) : e'.Inv p := by
  cases heff with
  | answered => exact h
  | rejected _ c => exact h.noteRejection c
  | cleared => exact Engine.reset_inv p
  | pushedPw b hidle hlen => exact h.pushedPw hidle hlen b
  | overflowed =>
    have hrej := (h.noteRejection .faulted).errCodes
    exact Engine.faultEntry_inv _ hrej.rej hrej.rejSet
  | pushedSalt b hidle hlen => exact h.pushedSalt hidle hlen b
  | started hidle => exact h.started hidle
  | popped hdone hne => exact h.popped hdone hne

/-- Every command word is answered where R38 item 1 holds. -/
theorem hostCmd_completes {s : State} (h : s.eng.Bounded s.cfg) (w : Word16) : ∃ t, hostCmd w s = .next t := by
  unfold hostCmd
  split
  next i hd =>
    have henc := encode_of_decodeCmd16 hd
    cases i with
    | nop | illegalOp7 | illegalOp8to15 => exact ⟨_, rfl⟩
    | clr =>
      change ∃ t, execClr s = _
      unfold execClr
      split <;> exact ⟨_, rfl⟩
    | pushp b =>
      change ∃ t, execPushp b s = _
      unfold execPushp
      split
      next => exact ⟨_, rfl⟩
      next =>
        split
        next => exact ⟨_, rfl⟩
        next hne => exact ⟨_, memWrite_of_le _ (Nat.lt_of_le_of_ne h.pwLen_le hne)⟩
    | pushs b =>
      change ∃ t, execPushs b s = _
      unfold execPushs
      split
      next => exact ⟨_, rfl⟩
      next =>
        split
        next hlen => exact ⟨_, memWrite_of_le _ hlen⟩
        next => exact ⟨_, rfl⟩
    | start =>
      change ∃ t, execStart s = _
      unfold execStart
      split <;> exact ⟨_, rfl⟩
    | popc =>
      change ∃ t, execPopc s = _
      unfold execPopc
      split
      next => exact ⟨_, rfl⟩
      next =>
        split
        next => exact ⟨_, rfl⟩
        next hne =>
          have hne : s.eng.outPtr.toNat ≠ s.eng.outLen.toNat := fun heq => hne (BitVec.eq_of_toNat_eq heq)
          have hlt : s.eng.outPtr.toNat < s.eng.outLen.toNat := Nat.lt_of_le_of_ne h.outPtr_le hne
          exact ⟨_, memRead_of_le _ (Nat.le_trans hlt h.outLen_le)⟩
    | rdreg sel =>
      change ∃ t, execRdreg sel s = _
      unfold execRdreg
      split <;> exact ⟨_, rfl⟩
    | _ => nomatch henc
  next => exact ⟨_, rfl⟩

end Sys2Proof

/-! ## The invariant of R38 under the sequencer's operations -/

namespace Sys2Proof

open Machine

/-! ### The operation and its `STAGE` code -/

theorem op_eq_of_code {c c' : BitVec 5} {i j : Instr} (hi : decodeStage5 c = .ok i) (hj : decodeStage5 c' = .ok j)
    (h : c.toNat = c'.toNat) : i = j := by
  rw [BitVec.eq_of_toNat_eq h, hj] at hi
  exact (Except.ok.inj hi).symm

section
variable {e : Engine} {i : Instr} (hd : decodeStage5 e.stage = .ok i)
include hd

/-- An operation that starts no context and takes no digest leads from a code with an open context to one with an open
context, and from a code with a closed one to one with a closed one. -/
theorem Machine.Engine.nextStage_mem_openStages (hs : i ∉ [.aInit, .mInit, .pInit, .sInit, .rInit])
    (hf : i ∉ [.aFin, .mFin, .pFin, .sFin, .rFin]) : e.nextStage ∈ openStages ↔ e.stage.toNat ∈ openStages := by
  have htable : ∀ c : BitVec 5, ∀ j ∈ (decodeStage5 c).toOption, j ∉ [.aInit, .mInit, .pInit, .sInit, .rInit] →
      j ∉ [.aFin, .mFin, .pFin, .sFin, .rFin] →
      c.toNat ≠ 25 ∧ (c.toNat + 1 ∈ openStages ↔ c.toNat ∈ openStages) := by decide
  obtain ⟨h25, hsucc⟩ := htable e.stage i (by rw [hd]; rfl) hs hf
  rcases e.nextStage_cases with hn | ⟨hn, -⟩ | ⟨hn, -⟩
  · rw [hn]
    exact hsucc
  · rw [hn]
  · exact absurd hn h25

/-- At a code with a closed context nothing is fed. -/
theorem Machine.Engine.fedBytes_of_closed (hc : e.stage.toNat ∉ openStages) : e.fedBytes i = [] := by
  have htable : ∀ c : BitVec 5, ∀ j ∈ (decodeStage5 c).toOption, c.toNat ∉ openStages →
      j ∈ [.aInit, .mInit, .pInit, .sInit, .rInit, .pFill, .sFill, .ePrefix, .eGroup, .eLast] := by decide
  have hi := htable e.stage i (by rw [hd]; rfl) hc
  simp only [List.mem_cons, List.not_mem_nil, or_false] at hi
  rcases hi with rfl | rfl | rfl | rfl | rfl | rfl | rfl | rfl | rfl | rfl <;> rfl

theorem Machine.Engine.written_busy (hi : i ≠ .eLast) :
    1 ≤ (e.written i).stage.toNat ∧ (e.written i).stage.toNat ≤ 28 := by
  have hstage : (e.written i).stage.toNat = e.nextStage := Engine.stageAfter_toNat hd
  obtain ⟨hge, hle⟩ := e.isBusy_iff.1 (isBusy_of_decode hd)
  have h28 : e.stage.toNat ≠ 28 := fun h28 => hi (op_eq_of_code hd (c' := 28#5) rfl h28)
  rw [hstage]
  rcases e.nextStage_cases with hn | ⟨hn, -⟩ | ⟨-, hn⟩ <;> omega

theorem Machine.Engine.quiescent_written (hi : i ≠ .eLast) : (e.written i).Quiescent := by
  obtain ⟨hge, hle⟩ := Engine.written_busy hd hi
  refine ⟨fun h0 => ?_, fun h29 => ?_, fun h30 => ?_⟩
  · rw [h0] at hge
    exact absurd hge (by decide)
  · rw [h29] at hle
    exact absurd hle (by decide)
  · rw [h30] at hle
    exact absurd hle (by decide)

end

section
variable {p : Params} {e : Engine} {i : Instr} (h : e.Inv p)
include h

/-! ### How far the output is (45_encoding_stage.md R171 to R173) -/

/-- `OUTLEN` once the head of the output is written (45_encoding_stage.md R171). -/
theorem Machine.Engine.Inv.outLenAfter_ePrefix : (e.outLenAfter .ePrefix).toNat = 4 + e.saltLen.toNat := by
  have hsalt := h.bounded.saltLen_le
  rw [Engine.outLenAfter, BitVec.toNat_add, BitVec.toNat_setWidth, BitVec.toNat_ofNat]
  omega

/-- `OUTLEN` after one more group (R172). -/
theorem Machine.Engine.Inv.outLenAfter_eGroup (hst : e.stage = 27#5) (hg : e.g.toNat < 21) :
    (e.outLenAfter .eGroup).toNat = e.outLen.toNat + 4 ∧ e.outLen.toNat = 4 + e.saltLen.toNat + 4 * e.g.toNat := by
  have hsalt := h.bounded.saltLen_le
  have hlen := (h.outProgress.group hst).1
  refine ⟨?_, hlen⟩
  rw [Engine.outLenAfter, if_pos hg, BitVec.toNat_add, BitVec.toNat_ofNat]
  omega

/-- `OUTLEN` after the last characters (R173). -/
theorem Machine.Engine.Inv.outLenAfter_eLast (hst : e.stage = 28#5) :
    (e.outLenAfter .eLast).toNat = e.outLen.toNat + 2 ∧ e.outLen.toNat = 88 + e.saltLen.toNat := by
  have hsalt := h.bounded.saltLen_le
  have hlen := (h.outProgress.last hst).1
  refine ⟨?_, hlen⟩
  rw [Engine.outLenAfter, BitVec.toNat_add, BitVec.toNat_ofNat]
  omega

/-- `E_PREFIX` leads to the first group (45_encoding_stage.md R171). -/
theorem Machine.Engine.Inv.outProgress_ePrefix : (e.written .ePrefix).OutProgress where
  before := fun h26 => absurd h26 (by simp [opCode, encode])
  group := fun _ => ⟨h.outLenAfter_ePrefix, rfl⟩
  last := fun h28 => absurd h28 (by simp [opCode, encode])
  done := fun h29 => absurd h29 (by simp [opCode, encode])

/-- `E_GROUP` leads to the next group, and from the last one to `E_LAST` (R172). -/
theorem Machine.Engine.Inv.outProgress_eGroup (hst : e.stage = 27#5) : (e.written .eGroup).OutProgress := by
  obtain ⟨hlen, hptr⟩ := h.outProgress.group hst
  by_cases hg : e.g.toNat < 21
  · refine ⟨fun h26 => absurd h26 (by simp [hg]), fun _ => ⟨?_, hptr⟩, fun h28 => absurd h28 (by simp [hg]),
      fun h29 => absurd h29 (by simp [hg])⟩
    have hlen' := (h.outLenAfter_eGroup hst hg).1
    have hg' : (e.gAfter .eGroup).toNat = e.g.toNat + 1 := by
      rw [Engine.gAfter, if_pos hg, BitVec.toNat_add, BitVec.toNat_ofNat]
      omega
    change (e.outLenAfter .eGroup).toNat = 4 + e.saltLen.toNat + 4 * (e.gAfter .eGroup).toNat
    omega
  · refine ⟨fun h26 => absurd h26 (by simp [hg]), fun h27 => absurd h27 (by simp [hg]), fun _ => ⟨?_, hptr⟩,
      fun h29 => absurd h29 (by simp [hg])⟩
    have hg21 := h.bounded.g_le
    change (if e.g.toNat < 21 then e.outLen + 4#7 else e.outLen).toNat = 88 + e.saltLen.toNat
    rw [if_neg hg]
    omega

/-! ### The ranges of the counters (R28), and the canonical form -/

theorem Machine.Engine.Inv.rAfter_le : (e.rAfter i).toNat ≤ 4999 := by
  have hr := h.bounded.r_le
  unfold Engine.rAfter
  split
  next => decide
  next =>
    split
    next hlt =>
      rw [BitVec.toNat_add, BitVec.toNat_ofNat]
      omega
    next => exact hr
  next => exact hr

theorem Machine.Engine.Inv.gAfter_le : (e.gAfter i).toNat ≤ 21 := by
  have hg := h.bounded.g_le
  unfold Engine.gAfter
  split
  next => decide
  next =>
    split
    next hlt =>
      rw [BitVec.toNat_add, BitVec.toNat_ofNat]
      omega
    next => exact hg
  next => exact hg

theorem Machine.Engine.Inv.cntAfter_le : e.cntAfter i ≤ max p.pwMax 271 := by
  have hcnt := h.bounded.cnt_le
  have hpw := h.bounded.pwLen_le
  have hbyte := e.result[0].isLt
  unfold Engine.cntAfter
  split <;> omega

theorem Machine.Engine.Inv.lshAfter_le : e.lshAfter i ≤ p.pwMax := by
  have hlsh := h.bounded.lsh_le
  unfold Engine.lshAfter
  split
  next =>
    split
    next => exact hlsh
    next => exact h.bounded.pwLen_le
  next =>
    rw [Nat.shiftRight_one]
    omega
  next => exact hlsh

theorem Machine.Engine.Inv.outAfter_wf : (e.outAfter i).wf := by
  have hout := h.memForm.out
  unfold Engine.outAfter
  split
  next => exact Memory.writeRange_wf hout _ _
  next =>
    split
    next => exact Memory.writeRange_wf hout _ _
    next => exact hout
  next => exact Memory.writeRange_wf hout _ _
  next => exact hout

theorem Machine.Engine.Inv.memForm_written : (e.written i).MemForm where
  pw := h.memForm.pw
  salt := h.memForm.salt
  pBuf := by
    change Memory.wf (if i = .pFill then _ else _)
    split
    next => exact Memory.writeRange_wf h.memForm.pBuf _ _
    next => exact h.memForm.pBuf
  sBuf := by
    change Memory.wf (if i = .sFill then _ else _)
    split
    next => exact Memory.writeRange_wf h.memForm.sBuf _ _
    next => exact h.memForm.sBuf
  out := h.outAfter_wf

end

section
variable {p : Params} {e : Engine} {i : Instr} (h : e.Inv p) (hd : decodeStage5 e.stage = .ok i)
include h hd

/-! ### R38 item 1 -/

/-- Until `DONE` no output byte has been read. -/
theorem Machine.Engine.Inv.outPtr_eq_zero : e.outPtr = 0#7 := by
  obtain ⟨-, hle⟩ := e.isBusy_iff.1 (isBusy_of_decode hd)
  obtain h26 | h27 | h28 : e.stage.toNat ≤ 26 ∨ e.stage = 27#5 ∨ e.stage = 28#5 := by
    simp only [← BitVec.toNat_inj, BitVec.toNat_ofNat]
    omega
  · exact (h.outProgress.before h26).2
  · exact (h.outProgress.group h27).2
  · exact (h.outProgress.last h28).2

theorem Machine.Engine.Inv.outLenAfter_le : (e.outLenAfter i).toNat ≤ 106 := by
  have hsalt := h.bounded.saltLen_le
  have hst := opCode_of_decode hd
  by_cases hi : i ∈ [.ePrefix, .eGroup, .eLast]
  · simp only [List.mem_cons, List.not_mem_nil, or_false] at hi
    rcases hi with rfl | rfl | rfl
    · rw [h.outLenAfter_ePrefix]
      omega
    · by_cases hg : e.g.toNat < 21
      · obtain ⟨hnext, hlen⟩ := h.outLenAfter_eGroup hst.symm hg
        omega
      · rw [Engine.outLenAfter, if_neg hg]
        exact h.bounded.outLen_le
    · obtain ⟨hnext, hlen⟩ := h.outLenAfter_eLast hst.symm
      omega
  · rw [Engine.outLenAfter_of_not_mem hi]
    exact h.bounded.outLen_le

theorem Machine.Engine.Inv.bounded_written : (e.written i).Bounded p where
  stage_le := by
    have hnext := Engine.nextStage_le (isBusy_of_decode hd)
    rw [← Engine.stageAfter_toNat hd] at hnext
    exact Nat.le_succ_of_le hnext
  pwLen_le := h.bounded.pwLen_le
  saltLen_le := h.bounded.saltLen_le
  outPtr_le := by
    have hzero : (e.written i).outPtr = 0#7 := by
      change (if i = .ePrefix then 0#7 else e.outPtr) = 0#7
      rw [h.outPtr_eq_zero hd, ite_self]
    rw [hzero]
    exact Nat.zero_le _
  outLen_le := h.outLenAfter_le hd
  r_le := h.rAfter_le
  g_le := h.gAfter_le
  cnt_le := h.cntAfter_le
  lsh_le := h.lshAfter_le

/-! ### R38 item 2 and 93_implementation_defined.md U12 -/

/-- The bytes of `OUT` past `OUTLEN` stay zero. -/
theorem Machine.Engine.Inv.outAfter_tail {k : Nat} (hk : (e.outLenAfter i).toNat ≤ k) : (e.outAfter i).read k = 0#8 := by
  have htail := h.zeroTails.out k
  have hst := opCode_of_decode hd
  by_cases hi : i ∈ [.ePrefix, .eGroup, .eLast]
  · simp only [List.mem_cons, List.not_mem_nil, or_false] at hi
    rcases hi with rfl | rfl | rfl
    · rw [h.outLenAfter_ePrefix] at hk
      have hlen : (tagChars ++ e.saltBytes ++ [dollar]).length = 4 + e.saltLen.toNat := by
        simp only [List.length_append, Engine.saltBytes_length, tagChars, List.length_cons, List.length_nil]
        omega
      rw [Engine.outAfter, Memory.read_writeRange_other _ _ _ (by omega)]
      refine htail ?_
      rw [(h.outProgress.before (by rw [← hst]; decide)).1]
      exact Nat.zero_le k
    · by_cases hg : e.g.toNat < 21
      · have hnext := (h.outLenAfter_eGroup hst.symm hg).1
        rw [Engine.outAfter, if_pos hg, Memory.read_writeRange_other _ _ _ (by rw [enc_length]; omega)]
        exact htail (by omega)
      · rw [Engine.outLenAfter, if_neg hg] at hk
        rw [Engine.outAfter, if_neg hg]
        exact htail hk
    · have hnext := (h.outLenAfter_eLast hst.symm).1
      rw [Engine.outAfter, Memory.read_writeRange_other _ _ _ (by rw [enc_length]; omega)]
      exact htail (by omega)
  · rw [Engine.outLenAfter_of_not_mem hi] at hk
    rw [Engine.outAfter_of_not_mem hi]
    exact htail hk

theorem Machine.Engine.Inv.zeroTails_written : (e.written i).ZeroTails where
  pw := h.zeroTails.pw
  salt := h.zeroTails.salt
  pBuf := fun k (hk : e.pwLen ≤ k) => by
    change Memory.read (if i = .pFill then _ else _) k = 0#8
    split
    next =>
      rw [Memory.read_writeRange_other _ _ _ (by rw [stretch_length]; omega)]
      exact h.zeroTails.pBuf k hk
    next => exact h.zeroTails.pBuf k hk
  sBuf := fun k (hk : e.saltLen.toNat ≤ k) => by
    change Memory.read (if i = .sFill then _ else _) k = 0#8
    split
    next =>
      rw [Memory.read_writeRange_other _ _ _ (by rw [Engine.bytes_length]; omega)]
      exact h.zeroTails.sBuf k hk
    next => exact h.zeroTails.sBuf k hk
  out := fun _ hk => h.outAfter_tail hd hk

/-! ### R38 item 3 -/

theorem Machine.Engine.Inv.ctxByStage_written : (e.written i).CtxByStage := by
  have hstage : (e.written i).stage.toNat = e.nextStage := Engine.stageAfter_toNat hd
  by_cases hs : i ∈ [.aInit, .mInit, .pInit, .sInit, .rInit]
  · simp only [List.mem_cons, List.not_mem_nil, or_false] at hs
    rcases hs with rfl | rfl | rfl | rfl | rfl <;>
      exact ⟨iff_of_true rfl (by simp [openStages, opCode, encode]), (nomatch ·)⟩
  by_cases hf : i ∈ [.aFin, .mFin, .pFin, .sFin, .rFin]
  · simp only [List.mem_cons, List.not_mem_nil, or_false] at hf
    rcases hf with rfl | rfl | rfl | rfl | rfl
    case inr.inr.inr.inr =>
      refine ⟨iff_of_false Bool.false_ne_true ?_, fun _ => rfl⟩
      simp only [Engine.written, Engine.stageAfter]
      split <;> decide
    all_goals exact ⟨iff_of_false Bool.false_ne_true (by simp [openStages, opCode, encode]), fun _ => rfl⟩
  · have hctx : (e.written i).ctx = { e.ctx with msg := e.ctx.msg ++ e.fedBytes i } := by
      change e.ctxAfter i = _
      unfold Engine.ctxAfter
      split <;> simp_all
    constructor
    · rw [hctx, hstage, Engine.nextStage_mem_openStages hd hs hf]
      exact h.ctxByStage.open_iff
    · rw [hctx]
      intro hclosed
      have hc : e.stage.toNat ∉ openStages := fun hmem => by
        rw [h.ctxByStage.open_iff.2 hmem] at hclosed
        cases hclosed
      rw [Engine.fedBytes_of_closed hd hc, List.append_nil]
      exact h.ctxByStage.closed_empty hclosed

/-! ### R38 items 4 and 5 -/

theorem Machine.Engine.Inv.p_filled_written (h16 : 16 ≤ e.nextStage) (hle : e.stage.toNat ≤ 28) {k : Nat}
    (hk : k < e.pwLen) :
    (e.written i).pBuf.read k = (e.written i).dp.toList.getD (k % 64) 0#8 := by
  by_cases hfill : i = .pFill
  · subst hfill
    have hin : 0 ≤ k ∧ k < 0 + (stretch e.dp e.pwLen).length := by
      rw [stretch_length]
      omega
    calc (e.written .pFill).pBuf.read k = (e.pBuf.writeRange 0 (stretch e.dp e.pwLen)).read k := rfl
      _ = (stretch e.dp e.pwLen).getD k 0#8 := by rw [Memory.read_writeRange h.memForm.pBuf, if_pos hin, Nat.sub_zero]
      _ = e.dp.toList.getD (k % 64) 0#8 := stretch_getD _ hk
  · have hst : 16 ≤ e.stage.toNat := by
      have h15 : e.stage.toNat ≠ 15 := fun h15 => hfill (op_eq_of_code hd (c' := 15#5) rfl h15)
      rcases e.nextStage_cases with hn | ⟨hn, -⟩ | ⟨hn, -⟩ <;> omega
    have hfin : i ≠ .pFin := by
      rintro rfl
      rw [← opCode_of_decode hd] at hst
      exact absurd hst (by decide)
    simp only [Engine.written, if_neg hfill, if_neg hfin]
    exact h.filled.p hst hle k hk

theorem Machine.Engine.Inv.s_filled_written (h20 : 20 ≤ e.nextStage) (hle : e.stage.toNat ≤ 28) {k : Nat}
    (hk : k < e.saltLen.toNat) : (e.written i).sBuf.read k = (e.written i).ds.toList.getD k 0#8 := by
  by_cases hfill : i = .sFill
  · subst hfill
    have hin : 0 ≤ k ∧ k < 0 + (e.bytes .ds 0 e.saltLen.toNat).length := by
      rw [Engine.bytes_length]
      omega
    calc (e.written .sFill).sBuf.read k = (e.sBuf.writeRange 0 (e.bytes .ds 0 e.saltLen.toNat)).read k := rfl
      _ = (e.bytes .ds 0 e.saltLen.toNat).getD k 0#8 := by
        rw [Memory.read_writeRange h.memForm.sBuf, if_pos hin, Nat.sub_zero]
      _ = e.ds.toList.getD k 0#8 := by simp [Engine.bytes, Engine.byteAt, List.getD_eq_getElem?_getD, hk]
  · have hst : 20 ≤ e.stage.toNat := by
      have h19 : e.stage.toNat ≠ 19 := fun h19 => hfill (op_eq_of_code hd (c' := 19#5) rfl h19)
      rcases e.nextStage_cases with hn | ⟨hn, -⟩ | ⟨hn, -⟩ <;> omega
    have hfin : i ≠ .sFin := by
      rintro rfl
      rw [← opCode_of_decode hd] at hst
      exact absurd hst (by decide)
    simp only [Engine.written, if_neg hfill, if_neg hfin]
    exact h.filled.s hst hle k hk

theorem Machine.Engine.Inv.filled_written : (e.written i).Filled := by
  have hstage : (e.written i).stage.toNat = e.nextStage := Engine.stageAfter_toNat hd
  have hle := (e.isBusy_iff.1 (isBusy_of_decode hd)).2
  constructor
  · rw [hstage]
    exact fun h16 _ _ hk => h.p_filled_written hd h16 hle hk
  · rw [hstage]
    exact fun h20 _ _ hk => h.s_filled_written hd h20 hle hk

/-! ### The error codes and the progress of the output -/

theorem Machine.Engine.Inv.errCode_eq_zero : e.errCode = 0#2 := by
  refine h.errCodes.err fun h30 => ?_
  have hle := (e.isBusy_iff.1 (isBusy_of_decode hd)).2
  rw [h30] at hle
  exact absurd hle (by decide)

theorem Machine.Engine.Inv.errCodes_written : (e.written i).ErrCodes where
  rej := h.errCodes.rej
  rejSet := h.errCodes.rejSet
  err := fun _ => h.errCode_eq_zero hd
  errFault := fun h30 => by
    have hnext := Engine.nextStage_le (isBusy_of_decode hd)
    rw [← Engine.stageAfter_toNat hd, show e.stageAfter i = Stage.fault from h30] at hnext
    exact absurd hnext (by decide)

theorem Machine.Engine.Inv.outProgress_written (hi : i ≠ .eLast) : (e.written i).OutProgress := by
  by_cases hprefix : i = .ePrefix
  · rw [hprefix]
    exact h.outProgress_ePrefix
  by_cases hgroup : i = .eGroup
  · subst hgroup
    exact h.outProgress_eGroup (opCode_of_decode hd).symm
  have hnot : i ∉ [.ePrefix, .eGroup, .eLast] := by
    simp [hprefix, hgroup, hi]
  have h25 : e.stage.toNat ≤ 25 := by
    have hle := (e.isBusy_iff.1 (isBusy_of_decode hd)).2
    have h26 : e.stage.toNat ≠ 26 := fun h26 => hprefix (op_eq_of_code hd (c' := 26#5) rfl h26)
    have h27 : e.stage.toNat ≠ 27 := fun h27 => hgroup (op_eq_of_code hd (c' := 27#5) rfl h27)
    have h28 : e.stage.toNat ≠ 28 := fun h28 => hi (op_eq_of_code hd (c' := 28#5) rfl h28)
    omega
  have hnext : (e.written i).stage.toNat ≤ 26 := by
    change (e.stageAfter i).toNat ≤ 26
    rw [Engine.stageAfter_toNat hd]
    rcases e.nextStage_cases with hn | ⟨hn, -⟩ | ⟨-, hn⟩ <;> omega
  have hlate {c : BitVec 5} (hc : 26 < c.toNat) : (e.written i).stage ≠ c := by
    rintro rfl
    omega
  refine ⟨fun _ => ?_, fun h27 => absurd h27 (hlate (by decide)), fun h28 => absurd h28 (hlate (by decide)),
    fun h29 => absurd h29 (hlate (by decide))⟩
  obtain ⟨hlen, hptr⟩ := h.outProgress.before (Nat.le_succ_of_le h25)
  exact ⟨(Engine.outLenAfter_of_not_mem hnot).trans hlen, (if_neg hprefix).trans hptr⟩

end

/-! ### The whole invariant -/

/-- `E_LAST` zeroises what the invariant wants zero in `DONE` (R174, R38 item 7). -/
theorem Machine.Engine.zeroiseWorking_inv {p : Params} {e : Engine} (hst : e.stage = 29#5) (hb : e.Bounded p)
    (hm : e.MemForm) (hz : e.ZeroTails) (herr : e.ErrCodes) (hlen : 90 ≤ e.outLen.toNat) : e.zeroiseWorking.Inv p where
  bounded := { (Engine.reset_inv p).bounded with
    stage_le := hb.stage_le
    outPtr_le := hb.outPtr_le
    outLen_le := hb.outLen_le }
  memForm := { (Engine.reset_inv p).memForm with out := hm.out }
  zeroTails := { (Engine.reset_inv p).zeroTails with out := hz.out }
  ctxByStage := ⟨by simp [hst, openStages], fun _ => rfl⟩
  filled := ⟨fun _ h => absurd h (by simp [hst]), fun _ h => absurd h (by simp [hst])⟩
  quiescent := ⟨fun h => absurd h (by simp [hst]), fun _ => by
      have h0 := herr.err (by simp [hst])
      rw [Engine.zeroiseWorking, hst, h0]
      rfl,
    fun h => absurd h (by simp [hst])⟩
  outProgress := ⟨fun h => absurd h (by simp [hst]), fun h => absurd h (by simp [hst]),
    fun h => absurd h (by simp [hst]), fun _ => hlen⟩
  errCodes := { herr with }

/-- A sequencer operation that does not fault keeps the invariant. -/
theorem Machine.Engine.Inv.afterOp {p : Params} {e : Engine} {i : Instr} (h : e.Inv p)
    (hd : decodeStage5 e.stage = .ok i) : (e.afterOp i).Inv p := by
  have hb := h.bounded_written hd
  have hm := h.memForm_written (i := i)
  have hz := h.zeroTails_written hd
  have herr := h.errCodes_written hd
  by_cases hi : i = .eLast
  · subst hi
    obtain ⟨hlen, hlen'⟩ := h.outLenAfter_eLast (opCode_of_decode hd).symm
    refine Engine.zeroiseWorking_inv rfl hb hm hz herr ?_
    change 90 ≤ (e.outLenAfter .eLast).toNat
    omega
  · rw [Engine.afterOp_of_ne _ hi]
    exact ⟨hb, hm, hz, h.ctxByStage_written hd, h.filled_written hd, Engine.quiescent_written hd hi,
      h.outProgress_written hd hi, herr⟩

/-! ### Every operation completes (93_implementation_defined.md U14) -/

theorem portOutcome.completes {i : Instr} {s : State} {e : Engine} (h : portOutcome i s e) : ∃ t, exec i s = .next t := by
  cases hf : s.failsAt 0 with
  | false => exact ⟨_, h.1 hf⟩
  | true => exact ⟨_, h.2 hf⟩

/-- A sequencer operation at its own `STAGE` code, in a state that meets the invariant, is not stuck. -/
theorem exec_completes {s : State} {i : Instr} (h : s.Inv) (hd : decodeStage5 s.eng.stage = .ok i) :
    ∃ t, exec i s = .next t := by
  have henc := encode_of_decodeStage5 hd
  have hst := opCode_of_decode hd
  have hfit : s.inputsFit := ⟨h.bounded.pwLen_le, h.bounded.saltLen_le⟩
  have ho (hmem : (opCode i).toNat ∈ openStages) : s.eng.ctx.isOpen = true := h.ctxByStage.open_iff.2 (hst ▸ hmem)
  cases i with
  | aInit => exact (portOutcome_aInit s).completes
  | aPw1 => exact (portOutcome_aPw1 (ho (by decide)) hfit).completes
  | aSalt => exact (portOutcome_aSalt (ho (by decide)) hfit).completes
  | aPw2 => exact (portOutcome_aPw2 (ho (by decide)) hfit).completes
  | aFin => exact (portOutcome_aFin (ho (by decide))).completes
  | mInit => exact (portOutcome_mInit s).completes
  | mPw => exact (portOutcome_mPw (ho (by decide)) hfit).completes
  | mSalt => exact (portOutcome_mSalt (ho (by decide)) hfit).completes
  | mCover =>
    rcases Nat.eq_zero_or_pos s.eng.cnt with hc | hc
    · exact ⟨_, exec_mCover_exit hc⟩
    · exact (portOutcome_mCover (ho (by decide)) hc).completes
  | mBits =>
    by_cases hl : s.eng.lsh = 0
    · exact ⟨_, exec_mBits_exit hl⟩
    · exact (portOutcome_mBits (ho (by decide)) hfit hl).completes
  | mFin => exact (portOutcome_mFin (ho (by decide))).completes
  | pInit => exact (portOutcome_pInit s).completes
  | pRep =>
    rcases Nat.eq_zero_or_pos s.eng.cnt with hc | hc
    · exact ⟨_, exec_pRep_exit hc⟩
    · exact (portOutcome_pRep (ho (by decide)) hfit hc).completes
  | pFin => exact (portOutcome_pFin (ho (by decide))).completes
  | pFill => exact ⟨_, exec_pFill hfit⟩
  | sInit => exact (portOutcome_sInit s).completes
  | sRep =>
    rcases Nat.eq_zero_or_pos s.eng.cnt with hc | hc
    · exact ⟨_, exec_sRep_exit hc⟩
    · exact (portOutcome_sRep (ho (by decide)) hfit hc).completes
  | sFin => exact (portOutcome_sFin (ho (by decide))).completes
  | sFill => exact ⟨_, exec_sFill hfit⟩
  | rInit => exact (portOutcome_rInit s).completes
  | rF1 => exact (portOutcome_rF1 (ho (by decide)) hfit).completes
  | rF2 =>
    by_cases hr : s.eng.r.toNat % 3 = 0
    · exact ⟨_, exec_rF2_skip hr⟩
    · exact (portOutcome_rF2 (ho (by decide)) hfit hr).completes
  | rF3 =>
    by_cases hr : s.eng.r.toNat % 7 = 0
    · exact ⟨_, exec_rF3_skip hr⟩
    · exact (portOutcome_rF3 (ho (by decide)) hfit hr).completes
  | rF4 => exact (portOutcome_rF4 (ho (by decide)) hfit).completes
  | rFin =>
    rcases Nat.lt_or_ge s.eng.r.toNat 4999 with hr | hr
    · exact (portOutcome_rFin_next (ho (by decide)) hr).completes
    · exact (portOutcome_rFin_last (ho (by decide)) hr).completes
  | ePrefix => exact ⟨_, exec_ePrefix hfit⟩
  | eGroup =>
    rcases Nat.lt_or_ge s.eng.g.toNat 21 with hg | hg
    · have hlen := (h.outProgress.group hst.symm).1
      have hsalt := h.bounded.saltLen_le
      exact ⟨_, exec_eGroup hg (by omega)⟩
    · exact ⟨_, exec_eGroup_exit hg⟩
  | eLast =>
    have hlen := (h.outProgress.last hst.symm).1
    have hsalt := h.bounded.saltLen_le
    exact ⟨_, exec_eLast (by omega)⟩
  | _ => nomatch henc

/-! ### Every step of every agent -/

theorem step_completes {s : State} (h : s.Inv) : ∃ t, step s = .next t := by
  unfold step
  cases s.nextEvent with
  | hostCmd w => exact hostCmd_completes (s := s.popEvent) h.bounded w
  | seqTurn =>
    cases hd : decodeStage5 s.popEvent.eng.stage with
    | ok i =>
      rw [runEvent, seqStep_of_decode hd]
      exact exec_completes (s := s.popEvent) h hd
    | error err =>
      rw [runEvent, seqStep, hd]
      exact ⟨_, rfl⟩
  | hardReset => exact ⟨_, rfl⟩

/-- A step leads from an engine that meets the invariant to one that does. -/
theorem inv_of_step {s t : State} (h : s.Inv) (hstep : step s = .next t) : t.Inv := by
  obtain ⟨hcfg, heng⟩ := step_engine hstep
  unfold State.Inv
  rw [hcfg]
  rcases heng with heng | ⟨-, i, hd, heng | heng⟩ | ⟨w, -, heff⟩ | ⟨-, heng⟩
  · rw [heng]
    exact h
  · rw [heng]
    exact Engine.faultEntry_inv .digestFail h.errCodes.rej h.errCodes.rejSet
  · rw [heng]
    exact h.afterOp hd
  · exact heff.inv h
  · rw [heng]
    exact Engine.reset_inv _

/-- Settles O38: every step completes, and keeps the invariant. -/
theorem stepKeepsInvariant : Obligations.StepKeepsInvariant := by
  intro s h
  obtain ⟨t, hstep⟩ := step_completes h
  exact ⟨t, hstep, inv_of_step h hstep⟩

end Sys2Proof

/-! ## Commands that fall into a run (20_memory.md R68) -/

namespace Sys2Proof

open Machine

theorem Machine.Engine.stage_not_mem_of_isBusy {e : Engine} (hb : e.isBusy = true) : e.stage ∉ [0#5, 29#5, 30#5] := by
  have h : ∀ c : BitVec 5, (Stage.aInit.ule c && c.ule Stage.eLast) = true → c ∉ [0#5, 29#5, 30#5] := by decide
  exact h e.stage hb

/-- A BUSY engine answers a command or rejects it, and a rejection writes the error registers only (R189, R223). -/
theorem HostEffect.dataPath_eq {p : Params} {e e' : Engine} {w : Word16} (heff : HostEffect p e w e')
    (hb : e.isBusy = true) : e'.dataPath = e.dataPath := by
  have hst := Engine.stage_not_mem_of_isBusy hb
  cases heff with
  | answered | rejected => rfl
  | cleared hacc => exact absurd (by simpa using e.acceptsClr_iff.1 hacc) hst
  | pushedPw _ h | overflowed _ h | pushedSalt _ h | started h | popped h => simp [h] at hst

theorem SameRun.symm {s t : State} (h : SameRun s t) : SameRun t s := by
  obtain ⟨hdata, hcfg, hanswers, hcount⟩ := h
  exact ⟨hdata.symm, hcfg.symm, hanswers.symm, hcount.symm⟩

theorem SameRun.isBusy_eq {s t : State} (h : SameRun s t) : t.eng.isBusy = s.eng.isBusy := by
  obtain ⟨hdata, -⟩ := h
  change t.eng.dataPath.isBusy = s.eng.dataPath.isBusy
  rw [hdata]

/-- While BUSY a command leaves everything that the run depends on. -/
theorem SameRun.hostCmd {s t t' : State} {w : Word16} (h : SameRun s t) (hb : s.eng.isBusy = true)
    (hw : hostCmd w t = .next t') : SameRun s t' := by
  obtain ⟨hframe, heff⟩ := hostStep_of_hostCmd hw
  have hkept := heff.dataPath_eq (h.isBusy_eq.trans hb)
  obtain ⟨hdata, hports⟩ := h
  rw [hframe]
  exact ⟨hkept.trans hdata, hports⟩

theorem step_agenda {s t : State} (h : step s = .next t) : t.agenda = s.agenda.tail := by
  rcases step_next h with ⟨-, h⟩ | ⟨w, -, h⟩ | ⟨-, rfl⟩
  · rcases seqStep_next h with ⟨-, rfl⟩ | ⟨i, -, heff⟩
    · rfl
    · rw [heff.frame]
      rfl
  · rw [(hostStep_of_hostCmd h).frame]
    rfl
  · rfl

@[simp] theorem turnsOf_hostCmd (w : Word16) (rest : List Event) : turnsOf (.hostCmd w :: rest) = turnsOf rest := rfl

@[simp] theorem turnsOf_seqTurn (rest : List Event) : turnsOf (.seqTurn :: rest) = turnsOf rest + 1 := by
  simp [turnsOf]

/-- A run with the host's commands in it against one of turns only: a command changes nothing of the first that counts,
and a turn takes both on in the same way. -/
theorem run_sameRun_turns {agenda : List Event} {s u : State} (hag : s.agenda = agenda) (hreset : .hardReset ∉ agenda)
    (hinv : s.Inv) (hu : u.agenda = []) (hsame : SameRun u s)
    (hbusy : ∀ k ≤ turnsOf agenda, ∃ v, run k u = .next v ∧ v.eng.isBusy = true) :
    ∃ t v, run agenda.length s = .next t ∧ run (turnsOf agenda) u = .next v ∧ SameRun v t ∧ t.agenda = [] := by
  induction agenda generalizing s u with
  | nil => exact ⟨s, u, rfl, rfl, hsame, hag⟩
  | cons ev rest ih =>
    obtain ⟨s', hs⟩ := step_completes hinv
    have hag' : s'.agenda = rest := by rw [step_agenda hs, hag, List.tail_cons]
    have hreset' : .hardReset ∉ rest := fun hmem => hreset (.tail ev hmem)
    have hev := hs
    rw [step_of_cons hag] at hev
    rw [List.length_cons, run_succ_of_step hs]
    cases ev with
    | hostCmd w =>
      obtain ⟨v, hv, hb⟩ := hbusy 0 (Nat.zero_le _)
      cases hv
      have hpop : SameRun u { s with agenda := rest } := hsame
      exact ih hag' hreset' (inv_of_step hinv hs) hu (hpop.hostCmd hb hev) hbusy
    | seqTurn =>
      have hpop : SameRun { s with agenda := rest } u := hsame.symm
      obtain ⟨u', hturn, hsame', -⟩ := runIgnoresErrorRegisters _ u s' hpop hev
      have hstep : step u = .next u' := by rw [step_of_nil hu, hturn]
      rw [turnsOf_seqTurn, run_succ_of_step hstep]
      refine ih hag' hreset' (inv_of_step hinv hs) (by rw [step_agenda hstep, hu, List.tail_nil]) hsame'.symm
        fun k hk => ?_
      rw [← run_succ_of_step hstep]
      exact hbusy (k + 1) (by rw [turnsOf_seqTurn]; exact Nat.succ_le_succ hk)
    | hardReset => exact absurd (.head rest) hreset

/-- Settles O43: the two runs are compared turn by turn, by induction on the agenda. -/
theorem interleavingIrrelevant : Obligations.InterleavingIrrelevant := by
  intro s hinv hreset hbusy
  exact run_sameRun_turns rfl hreset hinv rfl ⟨rfl, rfl, rfl, rfl⟩ hbusy

end Sys2Proof

/-! ## What a host command leaves unchanged (20_memory.md R60, R64) -/

namespace Sys2Proof

open Machine

/-- A command word decodes to the instruction it encodes (30_encoding.md R84). -/
theorem decodeCmd16_of_encode {i : Instr} {w : Word16} (h : encode i = .cmd16 w) : decodeCmd16 w = .ok i := by
  have hrt : decode Params.default (encode i) = .ok i := by
    cases i with
    | nop => exact Laws.RoundTrip.nop _ nofun
    | clr => exact Laws.RoundTrip.clr _ nofun
    | pushp b => exact Laws.RoundTrip.pushp b _ nofun
    | pushs b => exact Laws.RoundTrip.pushs b _ nofun
    | start => exact Laws.RoundTrip.start _ nofun
    | popc => exact Laws.RoundTrip.popc _ nofun
    | rdreg sel => exact Laws.RoundTrip.rdreg sel _ nofun
    | illegalOp7 low => exact Laws.RoundTrip.illegalOp7 low _ nofun
    | illegalOp8to15 low => exact Laws.RoundTrip.illegalOp8to15 low _ nofun
    | _ => nomatch h
  rwa [h] at hrt

/-- An instruction is the one its word encodes. -/
theorem eq_of_encode_cmd16 {i j : Instr} {w : Word16} (hi : encode i = .cmd16 w) (hj : encode j = .cmd16 w) : i = j := by
  have hd := decodeCmd16_of_encode hi
  rw [decodeCmd16_of_encode hj] at hd
  exact (Except.ok.inj hd).symm

/-- A host command does what its word does. -/
theorem hostStep_of_exec {i : Instr} {w : Word16} {s t : State} (henc : encode i = .cmd16 w) (h : exec i s = .next t) :
    HostStep w s t :=
  hostStep_of_hostCmd ((hostCmd_of_decode (decodeCmd16_of_encode henc) s).trans h)

section
variable {e : Engine} {sp : Space} {k : Nat} (b : Byte)

theorem Machine.Engine.byteAt_pushedPw (h : ¬inTarget (storeTarget (.pushp b) e) sp k) :
    Engine.byteAt { e with pw := e.pw.writeRange e.pwLen [b], pwLen := e.pwLen + 1 } sp k = e.byteAt sp k := by
  cases sp with
  | pw => exact Memory.read_writeRange_of_not_inTarget _ h
  | salt | alt | result | dp | ds | p | s | out => rfl

theorem Machine.Engine.byteAt_pushedSalt (h : ¬inTarget (storeTarget (.pushs b) e) sp k) :
    Engine.byteAt { e with salt := e.salt.writeRange e.saltLen.toNat [b], saltLen := e.saltLen + 1#5 } sp k =
      e.byteAt sp k := by
  cases sp with
  | salt => exact Memory.read_writeRange_of_not_inTarget _ h
  | pw | alt | result | dp | ds | p | s | out => rfl

end

/-- Settles O52: the effects of a command word one by one; the two that zeroise are those left out. -/
theorem frameHostCommands : Obligations.FrameHostCommands := by
  intro s t i hx hcmd
  obtain ⟨w, henc⟩ : ∃ w, encode i = .cmd16 w := by
    rcases hcmd with h | ⟨_, rfl⟩ | ⟨_, rfl⟩ | ⟨_, rfl⟩ | rfl | rfl | ⟨rfl, -⟩ | ⟨_, rfl, -⟩ | ⟨_, rfl⟩
    · exact ⟨_, by rw [List.mem_singleton.1 h]; rfl⟩
    all_goals exact ⟨_, rfl⟩
  obtain ⟨hframe, heff⟩ := hostStep_of_exec henc hx
  refine ⟨hframe, ?_⟩
  generalize t.eng = e' at heff
  cases heff with
  | answered | rejected =>
    refine ⟨fun sp _ _ => ?_, rfl, fun _ => ⟨rfl, rfl⟩, fun _ => ⟨rfl, rfl⟩, fun _ => rfl, fun _ => rfl⟩
    cases sp <;> rfl
  | cleared hacc =>
    obtain rfl := eq_of_encode_cmd16 (j := .clr) henc rfl
    have hbusy : s.eng.stage ∉ [0#5, 29#5, 30#5] := by simpa using hcmd
    exact absurd (by simpa using s.eng.acceptsClr_iff.1 hacc) hbusy
  | pushedPw b =>
    obtain rfl := eq_of_encode_cmd16 (j := .pushp b) henc rfl
    exact ⟨fun _ _ => Engine.byteAt_pushedPw b, rfl, fun h => absurd rfl (h b), fun _ => ⟨rfl, rfl⟩, fun _ => rfl,
      fun _ => rfl⟩
  | overflowed b hidle hfull =>
    obtain rfl := eq_of_encode_cmd16 (j := .pushp b) henc rfl
    have hroom : ¬(s.eng.stage = 0#5 ∧ s.eng.pwLen = s.cfg.pwMax) := by simpa using hcmd
    exact absurd ⟨hidle, hfull⟩ hroom
  | pushedSalt b =>
    obtain rfl := eq_of_encode_cmd16 (j := .pushs b) henc rfl
    exact ⟨fun _ _ => Engine.byteAt_pushedSalt b, rfl, fun _ => ⟨rfl, rfl⟩, fun h => absurd rfl (h b), fun _ => rfl,
      fun _ => rfl⟩
  | started =>
    obtain rfl := eq_of_encode_cmd16 (j := .start) henc rfl
    refine ⟨fun sp _ _ => ?_, rfl, fun _ => ⟨rfl, rfl⟩, fun _ => ⟨rfl, rfl⟩, fun h => absurd rfl h, fun _ => rfl⟩
    cases sp <;> rfl
  | popped =>
    obtain rfl := eq_of_encode_cmd16 (j := .popc) henc rfl
    refine ⟨fun sp _ _ => ?_, rfl, fun _ => ⟨rfl, rfl⟩, fun _ => ⟨rfl, rfl⟩, fun _ => rfl, fun h => absurd rfl h⟩
    cases sp <;> rfl

end Sys2Proof

/-! ## What a response depends on (20_memory.md R67) -/

namespace Sys2Proof

open Machine

/-- If the first outcome is a next state, it adds one response to those of `s`, and the second outcome is a next state that
adds the same one to those of `t`. -/
def AnsweredAlike (s t : State) (o o' : Out) : Prop :=
  ∀ s', o = .next s' → ∃ t' r, o' = .next t' ∧ s'.responses = s.responses ++ [r] ∧ t'.responses = t.responses ++ [r]

section
variable {s t : State}

theorem AnsweredAlike.next {s' t' : State} {r : Word16} (hs : s'.responses = s.responses ++ [r])
    (ht : t'.responses = t.responses ++ [r]) : AnsweredAlike s t (.next s') (.next t') := by
  intro s'' h
  cases h
  exact ⟨t', r, rfl, hs, ht⟩

theorem AnsweredAlike.reject (c : RejCause) : AnsweredAlike s t (.next (s.reject c)) (.next (t.reject c)) :=
  .next (r := rejWord c) rfl rfl

theorem AnsweredAlike.respond (w : Word16) : AnsweredAlike s t (.next (s.respond w)) (.next (t.respond w)) :=
  .next (r := w) rfl rfl

theorem AnsweredAlike.ite {c : Prop} [Decidable c] {a b a' b' : Out} (ha : c → AnsweredAlike s t a a')
    (hb : ¬c → AnsweredAlike s t b b') : AnsweredAlike s t (if c then a else b) (if c then a' else b') := by
  split
  next hc => exact ha hc
  next hc => exact hb hc

theorem AnsweredAlike.fault {f : Fault} {o' : Out} : AnsweredAlike s t (.fault f) o' := nofun

/-! ### What the view determines -/

theorem selected_eq_of_hostView {e e' : Engine} (h : e.hostView = e'.hostView) (sel : Byte) :
    e.selected sel = e'.selected sel := by
  simp only [Engine.hostView, HostView.mk.injEq] at h
  obtain ⟨hstage, herr, hrej, hcmd, hsalt, houtLen, houtPtr, hr, hpw, -⟩ := h
  simp only [Engine.selected, Engine.status, Engine.outAv, Engine.isBusy, Engine.isDone, Engine.isFault, hstage, herr, hrej,
    hcmd, hsalt, houtLen, houtPtr, hr, hpw]

variable (hview : s.eng.hostView = t.eng.hostView)
include hview

theorem execClr_answeredAlike : AnsweredAlike s t (execClr s) (execClr t) := by
  have hstage : s.eng.stage = t.eng.stage := congrArg HostView.stage hview
  simp only [execClr, Engine.acceptsClr, Engine.isIdle, Engine.isDone, Engine.isFault, hstage]
  exact .ite (fun _ => .next (r := ackWord 0#8) rfl rfl) fun _ => .reject _

theorem execPushp_answeredAlike (hcfg : s.cfg = t.cfg) (b : Byte) :
    AnsweredAlike s t (execPushp b s) (execPushp b t) := by
  have hstage : s.eng.stage = t.eng.stage := congrArg HostView.stage hview
  have hlen : s.eng.pwLen = t.eng.pwLen := congrArg HostView.pwLen hview
  simp only [execPushp, Engine.isIdle, memWrite, hstage, hlen, hcfg]
  exact .ite (fun _ => .reject _) fun _ => .ite (fun _ => .next (r := rejWord .faulted) rfl rfl) fun _ =>
    .ite (fun _ => .next (r := ackWord 0#8) rfl rfl) fun _ => .fault

theorem execPushs_answeredAlike (hcfg : s.cfg = t.cfg) (b : Byte) :
    AnsweredAlike s t (execPushs b s) (execPushs b t) := by
  have hstage : s.eng.stage = t.eng.stage := congrArg HostView.stage hview
  have hlen : s.eng.saltLen = t.eng.saltLen := congrArg HostView.saltLen hview
  simp only [execPushs, Engine.isIdle, memWrite, hstage, hlen, hcfg]
  exact .ite (fun _ => .reject _) fun _ =>
    .ite (fun _ => .ite (fun _ => .next (r := ackWord 0#8) rfl rfl) fun _ => .fault) fun _ => .respond _

theorem execStart_answeredAlike : AnsweredAlike s t (execStart s) (execStart t) := by
  have hstage : s.eng.stage = t.eng.stage := congrArg HostView.stage hview
  simp only [execStart, Engine.isIdle, hstage]
  exact .ite (fun _ => .reject _) fun _ => .next (r := ackWord 0#8) rfl rfl

/-- The next output byte is shown in `DONE`, where `POPC` reads it. -/
theorem outByte_eq_of_hostView (hdone : t.eng.isDone = true) :
    s.eng.out.read s.eng.outPtr.toNat = t.eng.out.read t.eng.outPtr.toNat := by
  have hstage : s.eng.stage = t.eng.stage := congrArg HostView.stage hview
  have hdone' : s.eng.isDone = true := by rw [Engine.isDone, hstage]; exact hdone
  have hbyte : s.eng.hostView.outByte = t.eng.hostView.outByte := congrArg HostView.outByte hview
  simpa only [Engine.hostView, hdone, hdone', if_true, Option.some.injEq] using hbyte

theorem execPopc_answeredAlike (hcfg : s.cfg = t.cfg) : AnsweredAlike s t (execPopc s) (execPopc t) := by
  have hstage : s.eng.stage = t.eng.stage := congrArg HostView.stage hview
  have hptr : s.eng.outPtr = t.eng.outPtr := congrArg HostView.outPtr hview
  have hlen : s.eng.outLen = t.eng.outLen := congrArg HostView.outLen hview
  have hisDone : s.eng.isDone = t.eng.isDone := by rw [Engine.isDone, Engine.isDone, hstage]
  simp only [execPopc, memRead, hisDone, hptr, hlen, hcfg]
  refine .ite (fun _ => .reject _) fun hdone => .ite (fun _ => .reject _) fun _ => .ite (fun _ => ?_) fun _ => .fault
  have hbyte := outByte_eq_of_hostView hview (by simpa using hdone)
  rw [hptr] at hbyte
  exact .next (r := ackWord (t.eng.out.read t.eng.outPtr.toNat)) (by rw [← hbyte]; rfl) rfl

theorem execRdreg_answeredAlike (sel : Byte) : AnsweredAlike s t (execRdreg sel s) (execRdreg sel t) := by
  rw [execRdreg, execRdreg, selected_eq_of_hostView hview]
  split
  next d _ => exact .respond _
  next => exact .reject _

end

/-- Settles O44: what each command asks of the engine is in its view. -/
theorem hostSeesOnlyView : Obligations.HostSeesOnlyView := by
  intro w s t s' hview hcfg
  suffices AnsweredAlike s t (hostCmd w s) (hostCmd w t) from this s'
  cases hd : decodeCmd16 w with
  | error err =>
    rw [hostCmd_of_error hd, hostCmd_of_error hd]
    exact .next rfl rfl
  | ok i =>
    rw [hostCmd_of_decode hd, hostCmd_of_decode hd]
    have henc := encode_of_decodeCmd16 hd
    cases i with
    | nop => exact .respond _
    | clr => exact execClr_answeredAlike hview
    | pushp b => exact execPushp_answeredAlike hview hcfg b
    | pushs b => exact execPushs_answeredAlike hview hcfg b
    | start => exact execStart_answeredAlike hview
    | popc => exact execPopc_answeredAlike hview hcfg
    | rdreg sel => exact execRdreg_answeredAlike hview sel
    | illegalOp7 | illegalOp8to15 => exact .reject _
    | _ => nomatch henc

end Sys2Proof

/-! ## Decoding and encoding of instructions (30_encoding.md R80 to R87) -/

namespace Sys2Proof

open Machine

/-! ### The two are inverse to each other (R82 to R84) -/

theorem encode_of_decodeDigop2 {p : Params} {c : BitVec 2} {data : List Byte} {i : Instr}
    (h : decodeDigop2 p c data = .ok i) : encode i = .digop2 c data := by
  unfold decodeDigop2 at h
  split at h
  next hc =>
    obtain rfl : c = 1#2 := BitVec.eq_of_toNat_eq hc
    split at h <;> cases h
    next hdata => rw [hdata, encode]
  next hc =>
    obtain rfl : c = 2#2 := BitVec.eq_of_toNat_eq hc
    split at h <;> cases h
    rfl
  next hc =>
    obtain rfl : c = 3#2 := BitVec.eq_of_toNat_eq hc
    split at h <;> cases h
    next hdata => rw [hdata, encode]
  next => cases h

theorem encode_of_decode {p : Params} {e : Encoded} {i : Instr} (h : decode p e = .ok i) : encode i = e := by
  cases e with
  | cmd16 w => exact encode_of_decodeCmd16 h
  | stage5 c => exact encode_of_decodeStage5 h
  | digop2 c data => exact encode_of_decodeDigop2 h

/-- A feed that decodes has at most the `PW_MAX` bytes of R83. -/
theorem length_le_of_decode_digFeed {p : Params} {e : Encoded} {x : List Byte} (h : decode p e = .ok (.digFeed x)) :
    x.length ≤ p.pwMax := by
  obtain rfl : .digop2 2#2 x = e := encode_of_decode h
  rw [decode, decodeDigop2_feed] at h
  split at h
  next hle => exact hle
  next => cases h

/-- The family `RoundTrip` as one lemma. -/
theorem decode_encode (i : Instr) : Laws.RoundTrip.Statement i := by
  cases i with
  | pushp b => exact Laws.RoundTrip.pushp b
  | pushs b => exact Laws.RoundTrip.pushs b
  | rdreg sel => exact Laws.RoundTrip.rdreg sel
  | illegalOp7 low => exact Laws.RoundTrip.illegalOp7 low
  | illegalOp8to15 low => exact Laws.RoundTrip.illegalOp8to15 low
  | digFeed bytes => exact Laws.RoundTrip.digFeed bytes
  | _ => exact fun _ _ => rfl

/-- Settles O2: what decodes is what the encoder gives, format by format, and back. -/
theorem decodeIffEncode : Obligations.DecodeIffEncode := by
  refine fun p => ⟨fun e i => ⟨fun h => ⟨(encode_of_decode h).symm, ?_⟩, ?_⟩, fun i hp hwf => ?_⟩
  · rintro x rfl
    exact length_le_of_decode_digFeed h
  · rintro ⟨rfl, hfeed⟩
    exact decode_encode i p hfeed
  · exact decode_encode i p (Instr.wf_feed_length hp hwf)

/-! ### The `match` and `mask` columns (R84) -/

theorem decodeCmd16_eq_ok_iff {w : Word16} {i : Instr} : decodeCmd16 w = .ok i ↔ encode i = .cmd16 w :=
  ⟨encode_of_decodeCmd16, decodeCmd16_of_encode⟩

/-- A word is `a` above `b` exactly when it has the bits of `a` under the mask of the upper part, and `b` below them. -/
theorem append_eq_iff_mask {m n : Nat} (a : BitVec m) (b : BitVec n) (w : BitVec (m + n)) :
    a ++ b = w ↔ w &&& (BitVec.allOnes m ++ 0#n) = a ++ 0#n ∧ b = w.setWidth n := by
  obtain ⟨hi, lo, rfl⟩ : ∃ (hi : BitVec m) (lo : BitVec n), hi ++ lo = w :=
    ⟨w.extractLsb' n m, w.extractLsb' 0 n,
      (BitVec.extractLsb'_append_extractLsb'_eq_extractLsb' (Nat.zero_add n).symm).trans BitVec.extractLsb'_eq_self⟩
  rw [BitVec.and_append, BitVec.and_allOnes, BitVec.and_zero, BitVec.append_left_inj,
    BitVec.setWidth_eq_extractLsb' (Nat.le_add_left n m), BitVec.extractLsb'_append_eq_right]
  constructor
  · intro h
    have hhigh := congrArg (BitVec.extractLsb' n m) h.symm
    have hlow := congrArg (BitVec.extractLsb' 0 n) h
    rw [BitVec.extractLsb'_append_eq_left, BitVec.extractLsb'_append_eq_left] at hhigh
    rw [BitVec.extractLsb'_append_eq_right, BitVec.extractLsb'_append_eq_right] at hlow
    exact ⟨hhigh, hlow⟩
  · rintro ⟨rfl, rfl⟩
    rfl

/-- The same where the lower part is free. -/
theorem exists_append_eq_iff_mask {m n : Nat} (a : BitVec m) (w : BitVec (m + n)) :
    (∃ b : BitVec n, a ++ b = w) ↔ w &&& (BitVec.allOnes m ++ 0#n) = a ++ 0#n :=
  ⟨fun ⟨_, h⟩ => ((append_eq_iff_mask _ _ _).1 h).1, fun h => ⟨_, (append_eq_iff_mask _ _ _).2 ⟨h, rfl⟩⟩⟩

/-- A command without an operand has all its bits under the mask. -/
theorem decodeCmd16_bare_iff {w v : Word16} {i : Instr} (he : encode i = .cmd16 v) :
    decodeCmd16 w = .ok i ↔ w &&& 0xFFFF#16 = v := by
  rw [decodeCmd16_eq_ok_iff, he, Encoded.cmd16.injEq, show 0xFFFF#16 = BitVec.allOnes 16 from rfl, BitVec.and_allOnes]
  exact eq_comm

/-- A command with an operand has its opcode and the reserved field under the mask. -/
theorem decodeCmd16_imm_iff {w : Word16} (op : BitVec 4) {f : Byte → Instr}
    (he : ∀ b, encode (f b) = .cmd16 (cmdWord op b)) (b : Byte) :
    decodeCmd16 w = .ok (f b) ↔ w &&& 0xFF00#16 = cmdWord op 0#8 ∧ b = w.setWidth 8 := by
  rw [decodeCmd16_eq_ok_iff, he, Encoded.cmd16.injEq]
  exact append_eq_iff_mask (op ++ 0#4) b w

/-- Settles O3: each row's word is its `match` under its `mask`. -/
theorem matchMaskTable : Obligations.MatchMaskTable := by
  intro w
  refine ⟨decodeCmd16_bare_iff rfl, decodeCmd16_bare_iff rfl, decodeCmd16_imm_iff 2#4 fun _ => rfl,
    decodeCmd16_imm_iff 3#4 fun _ => rfl, decodeCmd16_bare_iff rfl, decodeCmd16_bare_iff rfl,
    decodeCmd16_imm_iff 6#4 fun _ => rfl, ?_, ?_⟩
  · simp only [decodeCmd16_eq_ok_iff, encode, Encoded.cmd16.injEq]
    exact exists_append_eq_iff_mask (n := 12) 7#4 w
  · simp only [decodeCmd16_eq_ok_iff, encode, Encoded.cmd16.injEq]
    exact exists_append_eq_iff_mask (n := 15) 1#1 w

/-! ### The classification of a command word (R86) -/

theorem opField_toNat (w : Word16) : (opField w).toNat = w.toNat / 2 ^ 12 := by
  rw [opField, BitVec.extractLsb'_toNat, Nat.shiftRight_eq_div_pow]
  omega

theorem rsvField_toNat (w : Word16) : (rsvField w).toNat = w.toNat / 2 ^ 8 % 2 ^ 4 := by
  rw [rsvField, BitVec.extractLsb'_toNat, Nat.shiftRight_eq_div_pow]

theorem immField_toNat (w : Word16) : (immField w).toNat = w.toNat % 2 ^ 8 := by
  rw [immField, BitVec.extractLsb'_toNat, Nat.shiftRight_zero]

/-- The seven commands, those with an operand with operand `b` (R84). -/
def commandsWith (b : Byte) : List Instr := [.nop, .clr, .pushp b, .pushs b, .start, .popc, .rdreg b]

/-- What the decoder makes of a word, by the kind of its row in R84. -/
inductive DecodedRow (w : Word16) : Prop where
  | bare (i : Instr) (hlt : (opField w).toNat < 7) (hbare : (opField w).toNat ∈ [0, 1, 4, 5])
      (hi : i ∈ commandsWith (immField w)) (hd : decodeCmd16 w = bareCommand i w)
  | imm (f : Byte → Instr) (hlt : (opField w).toNat < 7) (himm : (opField w).toNat ∉ [0, 1, 4, 5])
      (hf : f (immField w) ∈ commandsWith (immField w)) (hd : decodeCmd16 w = immCommand f w)
  | illegal (i : Instr) (hge : 7 ≤ (opField w).toNat) (hd : decodeCmd16 w = .ok i)
      (hx : ∀ s, exec i s = .next (s.reject .illegalOpcode))

theorem decodedRow (w : Word16) : DecodedRow w := by
  match hop : (opField w).toNat with
  | 0 => exact .bare .nop (by omega) (by simp [hop]) (by simp [commandsWith]) (by simp only [decodeCmd16, hop])
  | 1 => exact .bare .clr (by omega) (by simp [hop]) (by simp [commandsWith]) (by simp only [decodeCmd16, hop])
  | 2 => exact .imm .pushp (by omega) (by simp [hop]) (by simp [commandsWith]) (by simp only [decodeCmd16, hop])
  | 3 => exact .imm .pushs (by omega) (by simp [hop]) (by simp [commandsWith]) (by simp only [decodeCmd16, hop])
  | 4 => exact .bare .start (by omega) (by simp [hop]) (by simp [commandsWith]) (by simp only [decodeCmd16, hop])
  | 5 => exact .bare .popc (by omega) (by simp [hop]) (by simp [commandsWith]) (by simp only [decodeCmd16, hop])
  | 6 => exact .imm .rdreg (by omega) (by simp [hop]) (by simp [commandsWith]) (by simp only [decodeCmd16, hop])
  | 7 => exact .illegal (.illegalOp7 (w.extractLsb' 0 12)) (by omega) (by simp only [decodeCmd16, hop]) fun _ => rfl
  | n + 8 => exact .illegal (.illegalOp8to15 (w.extractLsb' 0 15)) (by omega) (by simp only [decodeCmd16, hop]) fun _ => rfl

/-- Settles O4: the classes as tests of the three fields, for each kind of row. -/
theorem wordClassification : Obligations.WordClassification := by
  intro w s
  have hset : w.setWidth 8 = immField w := BitVec.setWidth_eq_extractLsb' (by decide)
  have hzero {n : Nat} (b : BitVec n) : b.toNat = 0 ↔ b = 0#n := by rw [BitVec.toNat_eq, BitVec.toNat_zero]
  rw [← opField_toNat, ← rsvField_toNat, ← immField_toNat, hset]
  simp only [ne_eq, hzero]
  obtain ⟨i, hlt, hbare, hi, hd⟩ | ⟨f, hlt, himm, hf, hd⟩ | ⟨i, hge, hd, hx⟩ := decodedRow w
  · rw [if_neg hlt.not_ge]
    by_cases hfields : rsvField w = 0#4 ∧ immField w = 0#8
    · have hok : decodeCmd16 w = .ok i := hd.trans (if_pos hfields)
      rw [if_neg (by tauto)]
      exact ⟨i, hi, encode_of_decodeCmd16 hok, hostCmd_of_decode hok s⟩
    · rw [if_pos (by tauto)]
      exact hostCmd_of_error (hd.trans (if_neg hfields)) s
  · rw [if_neg hlt.not_ge]
    by_cases hrsv : rsvField w = 0#4
    · have hok : decodeCmd16 w = .ok (f (immField w)) := hd.trans (if_pos hrsv)
      rw [if_neg (by tauto)]
      exact ⟨f (immField w), hf, encode_of_decodeCmd16 hok, hostCmd_of_decode hok s⟩
    · rw [if_pos (.inl hrsv)]
      exact hostCmd_of_error (hd.trans (if_neg hrsv)) s
  · rw [if_pos hge, hostCmd_of_decode hd, hx, State.reject_eq_rejected, RejCause.code]

/-- Settles O1, word by word. -/
theorem writtenWordsDecode : Obligations.WrittenWordsDecode :=
  ⟨rfl, rfl, rfl, rfl, rfl, rfl, rfl, rfl, rfl, rfl⟩

end Sys2Proof

/-! ## The encoded digest (30_encoding.md R90 to R97) -/

namespace Sys2Proof

open Machine

/-! ### Its characters (R94 to R97) -/

theorem enc_getElem? (v : BitVec 24) {n j : Nat} (h : j < n) :
    (enc v n)[j]? = some (charOf (v.toNat / 2 ^ (6 * j) % 2 ^ 6)) := by
  rw [← enc_getD v h, List.getD_eq_getElem _ _ (by rwa [enc_length]), List.getElem?_eq_getElem]

theorem groupChars_getElem? (d : Digest) {n g j : Nat} (hg : g < n) (hj : j < 4) :
    (groupChars d n)[4 * g + j]? = (enc (tripleValue d (perm g)) 4)[j]? := by
  induction n with
  | zero => omega
  | succ n ih =>
    rw [groupChars_succ]
    by_cases hlast : g = n
    · subst hlast
      rw [List.getElem?_append_right (by simp), groupChars_length, Nat.add_sub_cancel_left]
    · rw [List.getElem?_append_left (by rw [groupChars_length]; omega), ih (by omega)]

@[simp] theorem encodeDigest_length (d : Digest) : (encodeDigest d).length = 86 := by
  rw [encodeDigest_eq, List.length_append, groupChars_length, enc_length]

/-- The rows of the table, by R96. -/
theorem perm_eq_closedTriple {g : Nat} (hg : g < 21) :
    ((perm g).1.val, (perm g).2.1.val, (perm g).2.2.val) = closedTriple g := by
  revert g
  decide

theorem encodeDigest_group (d : Digest) {g j : Nat} (hg : g < 21) (hj : j < 4) :
    (encodeDigest d)[4 * g + j]? = some (charOf (tripleVal d (closedTriple g) / 2 ^ (6 * j) % 2 ^ 6)) := by
  rw [encodeDigest_eq, List.getElem?_append_left (by rw [groupChars_length]; omega), groupChars_getElem? d hg hj,
    enc_getElem? _ hj, tripleValue_toNat, perm_eq_closedTriple hg]

theorem byteVal_lt (d : Digest) (k : Nat) : byteVal d k < 2 ^ 8 := BitVec.isLt _

theorem byteVal_top_lt (d : Digest) (k : Nat) : byteVal d k / 2 ^ 6 < 4 :=
  Nat.div_lt_of_lt_mul (byteVal_lt d k)

theorem lastValue_toNat (d : Digest) : (lastValue d).toNat = byteVal d 63 := by
  rw [lastValue, BitVec.toNat_setWidth_of_le (by decide)]
  simp [permLast, byteVal, List.getD_eq_getElem?_getD]

/-- The two characters of the last byte, the low 6 bits first. -/
theorem encodeDigest_last (d : Digest) {j : Nat} (hj : j < 2) :
    (encodeDigest d)[84 + j]? = some (charOf (byteVal d 63 / 2 ^ (6 * j) % 2 ^ 6)) := by
  rw [encodeDigest_eq, List.getElem?_append_right (by simp), groupChars_length, Nat.add_sub_cancel_left,
    enc_getElem? _ hj, lastValue_toNat]

theorem encodeDigest_char84 (d : Digest) : (encodeDigest d)[84]? = some (charOf (byteVal d 63 % 2 ^ 6)) := by
  simpa using encodeDigest_last d (j := 0) (by decide)

theorem encodeDigest_char85 (d : Digest) : (encodeDigest d)[85]? = some (charOf (byteVal d 63 / 2 ^ 6)) := by
  have h := encodeDigest_last d (j := 1) (by decide)
  rwa [Nat.mod_eq_of_lt ((byteVal_top_lt d 63).trans (by decide))] at h

/-- Settles O45, the table row by row and the characters group by group. -/
theorem encodedDigest : Obligations.EncodedDigest := by
  refine ⟨fun g => perm_eq_closedTriple, by decide, fun d => ⟨encodeDigest_length d, fun g hg j => encodeDigest_group d hg,
    encodeDigest_char84 d, encodeDigest_char85 d, ?_⟩⟩
  have hfour : ∀ v < 4, charOf v ∈ [0x2E#8, 0x2F#8, 0x30#8, 0x31#8] := by decide
  exact ⟨_, hfour _ (byteVal_top_lt d 63), encodeDigest_char85 d⟩

/-! ### No byte is lost (R93, R95, R97) -/

theorem charOf_inj {i j : Nat} (hi : i < 64) (hj : j < 64) (h : charOf i = charOf j) : i = j := by
  have hall : ∀ i < 64, ∀ j < 64, charOf i = charOf j → i = j := by decide +kernel
  exact hall i hi j hj h

/-- A character spells one number. -/
theorem eq_of_getElem?_charOf {l : List Byte} {k i j : Nat} (hi : i < 64) (hj : j < 64) (h : l[k]? = some (charOf i))
    (h' : l[k]? = some (charOf j)) : i = j :=
  charOf_inj hi hj (Option.some.inj (h.symm.trans h'))

theorem tripleVal_lt (d : Digest) (t : Nat × Nat × Nat) : tripleVal d t < 2 ^ 24 := by
  have h1 := byteVal_lt d t.1
  have h2 := byteVal_lt d t.2.1
  have h3 := byteVal_lt d t.2.2
  rw [tripleVal]
  omega

/-- A number of 24 bits is its four groups of 6 bits. -/
theorem eq_of_groups {v v' : Nat} (hv : v < 2 ^ 24) (hv' : v' < 2 ^ 24)
    (h : ∀ j < 4, v / 2 ^ (6 * j) % 2 ^ 6 = v' / 2 ^ (6 * j) % 2 ^ 6) : v = v' := by
  have h0 := h 0 (by decide)
  have h1 := h 1 (by decide)
  have h2 := h 2 (by decide)
  have h3 := h 3 (by decide)
  omega

/-- The value of a triple determines its three bytes. -/
theorem byteVal_eq_of_tripleVal_eq {d d' : Digest} {t : Nat × Nat × Nat} (h : tripleVal d t = tripleVal d' t) {k : Nat}
    (hk : k ∈ [t.1, t.2.1, t.2.2]) : byteVal d k = byteVal d' k := by
  have hlt := byteVal_lt d
  have hlt' := byteVal_lt d'
  have h1 := hlt t.1
  have h1' := hlt' t.1
  have h2 := hlt t.2.1
  have h2' := hlt' t.2.1
  rw [tripleVal, tripleVal] at h
  simp only [List.mem_cons, List.not_mem_nil, or_false] at hk
  rcases hk with rfl | rfl | rfl <;> omega

/-- Every index but the last is in one of the triples (R95, R96). -/
theorem exists_closedTriple {k : Nat} (hk : k < 63) :
    ∃ g < 21, k ∈ [(closedTriple g).1, (closedTriple g).2.1, (closedTriple g).2.2] := by
  revert k
  decide

theorem digest_ext {d d' : Digest} (h : ∀ k < 64, byteVal d k = byteVal d' k) : d = d' := by
  apply Vector.ext
  intro k hk
  apply BitVec.eq_of_toNat_eq
  simpa [byteVal, List.getD_eq_getElem?_getD, hk] using h k hk

/-- Settles O46: the characters determine the value of each group, and with it the group's bytes. -/
theorem encodingInjective : Obligations.EncodingInjective := by
  intro d d' h
  have hgroup {g : Nat} (hg : g < 21) : tripleVal d (closedTriple g) = tripleVal d' (closedTriple g) := by
    refine eq_of_groups (tripleVal_lt d _) (tripleVal_lt d' _) fun j hj => ?_
    exact eq_of_getElem?_charOf (Nat.mod_lt _ (by decide)) (Nat.mod_lt _ (by decide)) (encodeDigest_group d hg hj)
      (h ▸ encodeDigest_group d' hg hj)
  have hlow : byteVal d 63 % 2 ^ 6 = byteVal d' 63 % 2 ^ 6 :=
    eq_of_getElem?_charOf (Nat.mod_lt _ (by decide)) (Nat.mod_lt _ (by decide)) (encodeDigest_char84 d)
      (h ▸ encodeDigest_char84 d')
  have hhigh : byteVal d 63 / 2 ^ 6 = byteVal d' 63 / 2 ^ 6 :=
    eq_of_getElem?_charOf ((byteVal_top_lt d 63).trans (by decide)) ((byteVal_top_lt d' 63).trans (by decide))
      (encodeDigest_char85 d) (h ▸ encodeDigest_char85 d')
  refine digest_ext fun k hk => ?_
  by_cases hlast : k = 63
  · subst hlast
    omega
  · obtain ⟨g, hg, hmem⟩ := exists_closedTriple (by omega : k < 63)
    exact byteVal_eq_of_tripleVal_eq (hgroup hg) hmem

/-! ### The output string (R90) -/

theorem mem_enc {v : BitVec 24} {n : Nat} {c : Byte} (h : c ∈ enc v n) : ∃ i < 64, c = charOf i := by
  obtain ⟨j, -, rfl⟩ := List.mem_map.1 h
  exact ⟨_, BitVec.isLt _, alpha_eq_charOf _⟩

theorem mem_encodeDigest {d : Digest} {c : Byte} (h : c ∈ encodeDigest d) : ∃ i < 64, c = charOf i := by
  rcases List.mem_append.1 h with hgroups | hlast
  · obtain ⟨l, hl, hc⟩ := List.mem_flatten.1 hgroups
    obtain ⟨g, -, rfl⟩ := List.mem_map.1 hl
    exact mem_enc hc
  · exact mem_enc hlast

/-- Settles O47 from the characters of the encoded digest. -/
theorem outputFormat : Obligations.OutputFormat := by
  intro password salt
  refine ⟨encodeDigest (finalDigest password (truncSalt salt)), rfl, encodeDigest_length _, fun c => mem_encodeDigest,
    ?_, ?_⟩
  · rw [crypt6, output_length, truncSalt, List.length_take, Nat.min_comm]
  · have htrunc : truncSalt (salt.take 16) = truncSalt salt := by simp [truncSalt, List.take_take]
    rw [crypt6, htrunc, crypt6]

end Sys2Proof

/-! ## The digest port (40_digest_port.md) -/

namespace Sys2Proof

open Machine

namespace Machine

/-! ### The three operations where the unit fails, and where the context is closed -/

section
variable {s : State}

theorem digStart_fail (k : State → Out) (h : s.failsAt 0 = true) :
    digStart s k = .next (s.answered (s.eng.faulted 2#2)) := digAnswered_fail _ h

theorem digFeed_fail {x : List Byte} (k : State → Out) (ho : s.eng.ctx.isOpen = true) (h : s.failsAt 0 = true) :
    digFeed x s k = .next (s.answered (s.eng.faulted 2#2)) :=
  (if_pos ho).trans (digAnswered_fail _ h)

theorem digFinal_fail (k : Digest → State → Out) (ho : s.eng.ctx.isOpen = true) (h : s.failsAt 0 = true) :
    digFinal s k = .next (s.answered (s.eng.faulted 2#2)) :=
  (if_pos ho).trans (digAnswered_fail _ h)

theorem digFeed_closed {x : List Byte} (k : State → Out) (hc : ¬s.eng.ctx.isOpen = true) :
    digFeed x s k = .fault .digestPortClosed := if_neg hc

theorem digFinal_closed (k : Digest → State → Out) (hc : ¬s.eng.ctx.isOpen = true) :
    digFinal s k = .fault .digestPortClosed := if_neg hc

end

/-! ### A digest-port operation as an instruction of its own -/

/-- The state after a digest-port operation that runs as an instruction: one answer drawn, and its reply (log entry 7). -/
def State.answeredWith (s : State) (e : Engine) (reply : Option Digest) : State := { s.answered e with digReply := reply }

/-- An answer is drawn, and the coming ones are one operation nearer (R114). -/
theorem State.failsAt_answeredWith (s : State) (e : Engine) (reply : Option Digest) (k : Nat) :
    (s.answeredWith e reply).failsAt k = s.failsAt (k + 1) := s.failsAt_drawAnswer k

theorem State.okFor.head {s : State} {n : Nat} (h : s.okFor (n + 1)) : s.failsAt 0 = false := h 0 (Nat.succ_pos n)

theorem State.okFor.answeredWith {s : State} {n : Nat} (h : s.okFor (n + 1)) (e : Engine) (reply : Option Digest) :
    (s.answeredWith e reply).okFor n :=
  fun k hk => (s.failsAt_answeredWith e reply k).trans (h (k + 1) (Nat.succ_lt_succ hk))

/-- One draw and then `n` are `n + 1`; engine and reply are those written last. -/
theorem State.drawn_answeredWith (s : State) (e e' : Engine) (reply reply' : Option Digest) (n : Nat) :
    { (s.answeredWith e reply).drawn n with eng := e', digReply := reply' } =
      { s.drawn (n + 1) with eng := e', digReply := reply' } := by
  simp only [drawn, answeredWith, answered, List.drop_tail, Nat.add_assoc, Nat.add_comm 1 n]

theorem exec_digFinal_eq (s : State) :
    exec .digFinal s = digFinal { s with digReply := none } fun d t => .next { t with digReply := some d } := rfl

section
variable {s : State} (hok : s.failsAt 0 = false)
include hok

theorem exec_digStart_ok :
    exec .digStart s = .next (s.answeredWith { s.eng with ctx := { isOpen := true, msg := [] } } none) :=
  digStart_ok (s := { s with digReply := none }) _ hok

theorem exec_digFeed_ok (x : List Byte) (ho : s.eng.ctx.isOpen = true) :
    exec (.digFeed x) s =
      .next (s.answeredWith { s.eng with ctx := { isOpen := true, msg := s.eng.ctx.msg ++ x } } none) :=
  digFeed_ok (s := { s with digReply := none }) _ ho hok

theorem exec_digFinal_ok (ho : s.eng.ctx.isOpen = true) :
    exec .digFinal s =
      .next (s.answeredWith { s.eng with ctx := { isOpen := false, msg := [] } } (some (sha512 s.eng.ctx.msg))) :=
  (exec_digFinal_eq s).trans (digFinal_ok _ ho hok)

end

end Machine

/-- Settles O30: each operation under both answers of the unit. -/
theorem portOperations : Obligations.PortOperations := by
  intro s
  refine ⟨fun hok => ⟨exec_digStart_ok hok, fun ho => ⟨fun x => exec_digFeed_ok hok x ho, exec_digFinal_ok hok ho⟩⟩,
    fun hfail => ⟨?_, fun ho => ⟨fun x => ?_, ?_⟩⟩⟩
  · exact digStart_fail (s := { s with digReply := none }) _ hfail
  · exact digFeed_fail (s := { s with digReply := none }) _ ho hfail
  · exact (exec_digFinal_eq s).trans (digFinal_fail _ ho hfail)

/-- Settles O31: both operations ask for the open context first. -/
theorem closedPortStops : Obligations.ClosedPortStops := by
  intro s x hclosed
  have hc : ¬s.eng.ctx.isOpen = true := Bool.not_eq_true _ ▸ hclosed
  exact ⟨digFeed_closed (s := { s with digReply := none }) _ hc, (exec_digFinal_eq s).trans (digFinal_closed _ hc)⟩

/-! ### A list of feeds (R115) -/

theorem execAll_cons {i : Instr} {s t : State} (h : exec i s = .next t) (is : List Instr) :
    execAll (i :: is) s = execAll is t := by
  rw [execAll, h]

/-- Feeds into an open context and `DIG.FINAL` return the digest of what stands in it followed by the feeds. -/
theorem execAll_feeds_final {s : State} {feeds : List (List Byte)} (ho : s.eng.ctx.isOpen = true)
    (hok : s.okFor (feeds.length + 1)) :
    execAll (feeds.map .digFeed ++ [.digFinal]) s =
      .next { s.drawn (feeds.length + 1) with
        eng := { s.eng with ctx := { isOpen := false, msg := [] } }
        digReply := some (sha512 (s.eng.ctx.msg ++ feeds.flatten)) } := by
  induction feeds generalizing s with
  | nil =>
    rw [List.flatten_nil, List.append_nil, List.map_nil, List.nil_append, execAll_cons (exec_digFinal_ok hok.head ho),
      List.length_nil, ← State.drawn_answeredWith s s.eng _ none]
    rfl
  | cons x feeds ih =>
    rw [List.map_cons, List.cons_append, execAll_cons (exec_digFeed_ok hok.head x ho), ih rfl (hok.answeredWith _ _),
      State.drawn_answeredWith, List.flatten_cons, ← List.append_assoc]
    rfl

/-- Settles O51: `DIG.START` opens an empty context, whatever state the old one is in, and the feeds follow. -/
theorem onlyConcatenation : Obligations.OnlyConcatenation := by
  intro s feeds hok
  rw [List.append_assoc, List.singleton_append, execAll_cons (exec_digStart_ok hok.head),
    execAll_feeds_final rfl (hok.answeredWith _ _), State.drawn_answeredWith]
  rfl

end Sys2Proof

/-! ## How a sequencer operation uses the digest port (40_digest_port.md R116) -/

namespace Sys2Proof

open Machine

/-- What a sequencer operation does at the digest port: one that issues is answered, or stopped where something it requires
does not hold (R112, R113, 20_memory.md R61); one that issues nothing only writes the engine. -/
inductive PortTurn (i : Instr) (s : State) : Prop where
  | answered (hissues : issuesPortOp i s.eng) (e : Engine) (hstage : e.stage ≠ 30#5) (h : portOutcome i s e)
  | stopped (hissues : issuesPortOp i s.eng) (hreq : ¬(s.inputsFit ∧ (startsContext i ∨ s.eng.ctx.isOpen = true)))
      (f : Fault) (h : exec i s = .fault f)
  | quiet (hissues : ¬issuesPortOp i s.eng)
      (h : ∀ t, exec i s = .next t → ∃ e : Engine, e.stage ≠ 30#5 ∧ t = s.setEng e)

section
variable {i : Instr} {s : State}

theorem PortTurn.of_digStart (f : Engine → Engine) (hi : exec i s = digStart s fun t => .next (t.setEng (f t.eng)))
    (hissues : issuesPortOp i s.eng := by simp [issuesPortOp]) (hf : ∀ e, (f e).stage ≠ 30#5 := by nofun) :
    PortTurn i s :=
  .answered hissues _ (hf _) (portOutcome_of_digStart hi)

theorem PortTurn.of_feed {sp : Space} {n : Nat} (hrange : s.inputsFit → n ≤ spaceSize s.cfg sp) (f : Engine → Engine)
    (hi : exec i s = memRead sp 0 n s fun x => digFeed x s fun t => .next (t.setEng (f t.eng)))
    (hissues : issuesPortOp i s.eng := by simp [issuesPortOp])
    (hstarts : ¬startsContext i := by simp [startsContext]) (hf : ∀ e, (f e).stage ≠ 30#5 := by nofun) :
    PortTurn i s := by
  by_cases hn : n ≤ spaceSize s.cfg sp
  · rw [feed_range_eq _ hn] at hi
    by_cases ho : s.eng.ctx.isOpen = true
    · exact .answered hissues _ (hf _) (portOutcome_of_digFeed ho hi)
    · exact .stopped hissues (fun hreq => ho (hreq.2.resolve_left hstarts)) _ (hi.trans (digFeed_closed _ ho))
  · exact .stopped hissues (fun hreq => hn (hrange hreq.1)) _ (hi.trans (if_neg (by rwa [Nat.zero_add])))

theorem PortTurn.of_digFinal (f : Digest → Engine → Engine)
    (hi : exec i s = digFinal s fun d t => .next (t.setEng (f d t.eng)))
    (hissues : issuesPortOp i s.eng := by simp [issuesPortOp])
    (hstarts : ¬startsContext i := by simp [startsContext]) (hf : ∀ d e, (f d e).stage ≠ 30#5 := by nofun) :
    PortTurn i s := by
  by_cases ho : s.eng.ctx.isOpen = true
  · exact .answered hissues _ (hf _ _) (portOutcome_of_digFinal ho hi)
  · exact .stopped hissues (fun hreq => ho (hreq.2.resolve_left hstarts)) _ (hi.trans (digFinal_closed _ ho))

theorem exists_setEng {t : State} {e : Engine} (h : (.next (s.setEng e) : Out) = .next t)
    (hstage : e.stage ≠ 30#5 := by nofun) : ∃ e : Engine, e.stage ≠ 30#5 ∧ t = s.setEng e :=
  ⟨e, hstage, (Host.Outcome.next.inj h).symm⟩

theorem PortTurn.of_setEng {e : Engine} (hi : exec i s = .next (s.setEng e)) (hissues : ¬issuesPortOp i s.eng)
    (hstage : e.stage ≠ 30#5 := by nofun) : PortTurn i s :=
  .quiet hissues fun _ h => exists_setEng (hi.symm.trans h) hstage

end

/-- Every sequencer operation, case by case. -/
theorem portTurn {c : BitVec 5} {i : Instr} (hd : decodeStage5 c = .ok i) (s : State) : PortTurn i s := by
  have henc := encode_of_decodeStage5 hd
  have hpw (hfit : s.inputsFit) : s.eng.pwLen ≤ spaceSize s.cfg .pw := hfit.1
  have hp (hfit : s.inputsFit) : s.eng.pwLen ≤ spaceSize s.cfg .p := hfit.1
  have hsalt (hfit : s.inputsFit) : s.eng.saltLen.toNat ≤ spaceSize s.cfg .salt := hfit.2
  have hs (hfit : s.inputsFit) : s.eng.saltLen.toNat ≤ spaceSize s.cfg .s := hfit.2
  have halt (n : Nat) (_ : s.inputsFit) : min n 64 ≤ spaceSize s.cfg .alt := Nat.min_le_right n 64
  have hresult (_ : s.inputsFit) : 64 ≤ spaceSize s.cfg .result := Nat.le_refl 64
  cases i with
  | aInit => exact .of_digStart (fun e => { e with stage := 2#5 }) rfl
  | aPw1 => exact .of_feed hpw (fun e => { e with stage := 3#5 }) rfl
  | aSalt => exact .of_feed hsalt (fun e => { e with stage := 4#5 }) rfl
  | aPw2 => exact .of_feed hpw (fun e => { e with stage := 5#5 }) rfl
  | aFin => exact .of_digFinal (fun d e => { e with alt := d, stage := 6#5 }) rfl
  | mInit => exact .of_digStart (fun e => { e with stage := 7#5 }) rfl
  | mPw => exact .of_feed hpw (fun e => { e with stage := 8#5 }) rfl
  | mSalt => exact .of_feed hsalt (fun e => { e with cnt := e.pwLen, stage := 9#5 }) rfl
  | mCover =>
    by_cases hc : 0 < s.eng.cnt
    · exact .of_feed (halt _) (fun e => { e with cnt := e.cnt - min s.eng.cnt 64, stage := 9#5 }) (if_pos hc)
        (by simp [issuesPortOp, hc])
    · exact .of_setEng (exec_mCover_exit (Nat.eq_zero_of_not_pos hc)) (by simpa [issuesPortOp] using hc)
  | mBits =>
    by_cases hl : s.eng.lsh ≠ 0
    · have hissues : issuesPortOp .mBits s.eng := by simp [issuesPortOp, hl]
      by_cases hbit : s.eng.lsh.testBit 0 = true
      · exact .of_feed (halt 64) (fun e => { e with lsh := e.lsh >>> 1, stage := 10#5 })
          ((if_pos hl).trans (if_pos hbit)) hissues
      · exact .of_feed hpw (fun e => { e with lsh := e.lsh >>> 1, stage := 10#5 })
          ((if_pos hl).trans (if_neg hbit)) hissues
    · exact .of_setEng (exec_mBits_exit (not_not.1 hl)) (by simpa [issuesPortOp] using hl)
  | mFin => exact .of_digFinal (fun d e => { e with result := d, stage := 12#5 }) rfl
  | pInit => exact .of_digStart (fun e => { e with cnt := e.pwLen, stage := 13#5 }) rfl
  | pRep =>
    by_cases hc : 0 < s.eng.cnt
    · exact .of_feed hpw (fun e => { e with cnt := e.cnt - 1, stage := 13#5 }) (if_pos hc)
        (by simp [issuesPortOp, hc])
    · exact .of_setEng (exec_pRep_exit (Nat.eq_zero_of_not_pos hc)) (by simpa [issuesPortOp] using hc)
  | pFin => exact .of_digFinal (fun d e => { e with dp := d, stage := 15#5 }) rfl
  | pFill =>
    exact .quiet (by simp [issuesPortOp]) fun t h => exists_setEng (memWrite_next (show execPFill s = _ from h)).2
  | sInit => exact .of_digStart (fun e => { e with cnt := 16 + e.result[0].toNat, stage := 17#5 }) rfl
  | sRep =>
    by_cases hc : 0 < s.eng.cnt
    · exact .of_feed hsalt (fun e => { e with cnt := e.cnt - 1, stage := 17#5 }) (if_pos hc)
        (by simp [issuesPortOp, hc])
    · exact .of_setEng (exec_sRep_exit (Nat.eq_zero_of_not_pos hc)) (by simpa [issuesPortOp] using hc)
  | sFin => exact .of_digFinal (fun d e => { e with ds := d, stage := 19#5 }) rfl
  | sFill =>
    exact .quiet (by simp [issuesPortOp]) fun t h =>
      exists_setEng (memWrite_next (memRead_next (show execSFill s = _ from h)).2).2
  | rInit => exact .of_digStart (fun e => { e with stage := 21#5 }) rfl
  | rF1 =>
    by_cases hodd : s.eng.r.getLsbD 0 = true
    · exact .of_feed hp (fun e => { e with stage := 22#5 }) (if_pos hodd)
    · exact .of_feed hresult (fun e => { e with stage := 22#5 }) (if_neg hodd)
  | rF2 =>
    by_cases hr : s.eng.r.toNat % 3 ≠ 0
    · exact .of_feed hs (fun e => { e with stage := 23#5 }) (if_pos hr) (by simp [issuesPortOp, hr])
    · exact .of_setEng (exec_rF2_skip (not_not.1 hr)) (by simpa [issuesPortOp] using hr)
  | rF3 =>
    by_cases hr : s.eng.r.toNat % 7 ≠ 0
    · exact .of_feed hp (fun e => { e with stage := 24#5 }) (if_pos hr) (by simp [issuesPortOp, hr])
    · exact .of_setEng (exec_rF3_skip (not_not.1 hr)) (by simpa [issuesPortOp] using hr)
  | rF4 =>
    by_cases hodd : s.eng.r.getLsbD 0 = true
    · exact .of_feed hresult (fun e => { e with stage := 25#5 }) (if_pos hodd)
    · exact .of_feed hp (fun e => { e with stage := 25#5 }) (if_neg hodd)
  | rFin =>
    by_cases hr : s.eng.r.toNat < 4999
    · exact .of_digFinal (fun d e => { e with result := d, r := s.eng.r + 1#13, stage := 20#5 }) (exec_rFin_next hr)
    · exact .of_digFinal (fun d e => { e with result := d, stage := 26#5 }) (exec_rFin_last hr)
  | ePrefix =>
    refine .quiet (by simp [issuesPortOp]) fun t h => ?_
    change execEPrefix s = _ at h
    unfold execEPrefix readSalt at h
    obtain ⟨-, h⟩ := memRead_next h
    obtain ⟨-, h⟩ := memWrite_next h
    obtain ⟨-, h⟩ := memWrite_next h
    obtain ⟨-, h⟩ := memWrite_next h
    exact exists_setEng h
  | eGroup =>
    by_cases hg : s.eng.g.toNat < 21
    · exact .quiet (by simp [issuesPortOp]) fun t h => exists_setEng (memWrite_next ((if_pos hg).symm.trans h)).2
    · exact .of_setEng (exec_eGroup_exit (Nat.le_of_not_lt hg)) (by simp [issuesPortOp])
  | eLast =>
    exact .quiet (by simp [issuesPortOp]) fun t h => exists_setEng (memWrite_next (show execELast s = _ from h)).2
  | _ => nomatch henc

/-- Settles O32: an issuing operation whose requirements hold is answered, and the answer is `fail`; the other two clauses are
the draw of R114. -/
theorem digestFailureEntersFault : Obligations.DigestFailureEntersFault := by
  refine ⟨fun c i s hd hissues hfit hopen hfail => ?_, fun s k hcan => ?_, fun s k a hcan ha => ?_⟩
  · cases portTurn hd s with
    | answered _ e _ h => exact h.2 hfail
    | stopped _ hreq => exact absurd ⟨hfit, hopen⟩ hreq
    | quiet hquiet => exact absurd hissues hquiet
  · rw [State.failsAt, hcan, Bool.false_and]
  · rw [State.failsAt, hcan, Bool.true_and, ha, Option.getD_some]

theorem portOutcome.next {i : Instr} {s t : State} {e : Engine} (h : portOutcome i s e) (hnext : exec i s = .next t) :
    (s.failsAt 0 = false ∧ t = s.answered e) ∨ (s.failsAt 0 = true ∧ t = s.answered (s.eng.faulted 2#2)) := by
  cases hf : s.failsAt 0 with
  | false => exact .inl ⟨rfl, (Host.Outcome.next.inj ((h.1 hf).symm.trans hnext)).symm⟩
  | true => exact .inr ⟨rfl, (Host.Outcome.next.inj ((h.2 hf).symm.trans hnext)).symm⟩

/-- Settles O33: an answered operation draws one answer and enters `FAULT` on `fail` only, a quiet one does neither. -/
theorem portUse : Obligations.PortUse := by
  intro c i s t hd hnext
  cases portTurn hd s with
  | answered hissues e hstage h =>
    refine ⟨fun _ => ?_, absurd hissues, fun h30 => ⟨hissues, ?_⟩⟩
    · rcases h.next hnext with ⟨-, rfl⟩ | ⟨-, rfl⟩ <;> exact ⟨rfl, rfl⟩
    · rcases h.next hnext with ⟨-, rfl⟩ | ⟨hfail, -⟩
      · exact absurd h30 hstage
      · exact hfail
  | stopped _ _ f h => exact nomatch h.symm.trans hnext
  | quiet hquiet h =>
    obtain ⟨e, hstage, rfl⟩ := h t hnext
    exact ⟨fun hissues => absurd hissues hquiet, fun _ => ⟨rfl, rfl⟩, fun h30 => absurd h30 hstage⟩

end Sys2Proof

/-! ## The operations and the messages of the alternate-sum stage (41_alternate_sum.md R121 to R126) -/

namespace Sys2Proof

open Machine

/-- Settles O16: each of the three is `DIG.START` with one write of `STAGE` behind it. -/
theorem startContext : Obligations.StartContext :=
  ⟨rfl, rfl, rfl, fun s => ⟨portOutcome_aInit s, portOutcome_mInit s, portOutcome_rInit s⟩⟩

/-- Settles O18: the range that is fed lies within `PW`, so each is `DIG.FEED` of the whole password. -/
theorem passwordFeeds : Obligations.PasswordFeeds :=
  ⟨rfl, rfl, rfl, fun _ ho hfit => ⟨portOutcome_aPw1 ho hfit, portOutcome_aPw2 ho hfit, portOutcome_mPw ho hfit⟩⟩

/-- Settles O19: the range that is fed lies within `SALT`, so each is `DIG.FEED` of the whole salt. -/
theorem saltFeeds : Obligations.SaltFeeds :=
  ⟨rfl, rfl, fun _ ho hfit => ⟨portOutcome_aSalt ho hfit, portOutcome_mSalt ho hfit⟩⟩

/-- Settles O23: each of the four is `DIG.FINAL` with the write of its register behind it. -/
theorem digestsTaken : Obligations.DigestsTaken :=
  ⟨rfl, rfl, rfl, rfl, fun _ ho => ⟨portOutcome_aFin ho, portOutcome_mFin ho, portOutcome_pFin ho, portOutcome_sFin ho⟩⟩

section
variable {s : State} {N : Nat} (hag : s.agenda = []) (hok : s.okFor N) (hst : s.eng.stage = 1#5)
include hag hok hst

/-! ### The message at each code, from `STAGE = 1` on (R126) -/

theorem busyRun_to_aPw1 (hN : 1 ≤ N) : BusyRun 1 s (s.after 1 (s.eng.atOpen 2#5 [])) :=
  .port (n := 0) (e := s.eng) hag hok hN (by rw [hst]; rfl) (portOutcome_aInit _)

variable (hfit : s.inputsFit)
include hfit

theorem busyRun_to_aSalt (hN : 2 ≤ N) : BusyRun 2 s (s.after 2 (s.eng.atOpen 3#5 s.eng.password)) :=
  (busyRun_to_aPw1 hag hok hst (by omega)).trans (.port hag hok hN rfl (portOutcome_aPw1 rfl hfit))

theorem busyRun_to_aPw2 (hN : 3 ≤ N) :
    BusyRun 3 s (s.after 3 (s.eng.atOpen 4#5 (s.eng.password ++ s.eng.saltBytes))) :=
  (busyRun_to_aSalt hag hok hst hfit (by omega)).trans (.port hag hok hN rfl (portOutcome_aSalt rfl hfit))

theorem busyRun_to_aFin (hN : 4 ≤ N) :
    BusyRun 4 s (s.after 4 (s.eng.atOpen 5#5 (s.eng.password ++ s.eng.saltBytes ++ s.eng.password))) :=
  (busyRun_to_aPw2 hag hok hst hfit (by omega)).trans (.port hag hok hN rfl (portOutcome_aPw2 rfl hfit))

end

/-- Settles O54: the four runs with the context open, and the run of the whole stage. -/
theorem alternateSumStage : Obligations.AlternateSumStage := by
  intro s hag hst hfit hok
  have hstage : BusyRun 5 s (s.after 5 s.eng.afterAlternateSum) :=
    busyRun_alternateSum (n := 0) hag hok hst hfit (by omega)
  exact ⟨(busyRun_to_aPw1 hag hok hst (by omega)).run_eq, (busyRun_to_aSalt hag hok hst hfit (by omega)).run_eq,
    (busyRun_to_aPw2 hag hok hst hfit (by omega)).run_eq, (busyRun_to_aFin hag hok hst hfit (by omega)).run_eq,
    hstage.run_eq⟩

end Sys2Proof

/-! ## The main sum (42_main_sum.md), and the formulas of the function layer -/

namespace Sys2Proof

open Machine

/-! ### The stage and the steps of its two loops -/

/-- Settles O20: `DIG.FEED` of the first bytes of `ALT` while some are left to cover, and the exit. -/
theorem coverLoopStep : Obligations.CoverLoopStep :=
  ⟨rfl, fun _ => ⟨fun hc ho => portOutcome_mCover ho hc, exec_mCover_exit⟩⟩

/-- Settles O21: `DIG.FEED` of what the low bit selects while bits are left, and the exit. -/
theorem bitLoopStep : Obligations.BitLoopStep :=
  ⟨rfl, fun _ => ⟨fun hl ho hfit => portOutcome_mBits ho hfit hl, exec_mBits_exit⟩⟩

/-- Settles O55: the run through the two loops, each by induction on its counter. -/
theorem mainSumStage : Obligations.MainSumStage := by
  intro s hag hst hfit len ops hok
  have hrun : BusyRun (3 + (coverChunks len + 1) + (bitlen len + 1) + 1) s (s.after (0 + ops) s.eng.afterMainSum) :=
    busyRun_mainSum (n := 0) hag hok hst hfit (Nat.le_of_eq (Nat.zero_add ops))
  rw [Nat.zero_add] at hrun
  exact hrun.run_eq

namespace Machine

/-! ### Whole copies and a rest (42_main_sum.md R130, 43_sequence_construction.md R140) -/

@[simp] theorem rep_length (x : List Byte) (n : Nat) : (rep x n).length = n * x.length := by simp [rep]

/-- What gives the first bytes of `x` for less than a chunk, and one copy of `x` more for a chunk more, gives whole copies
of `x` and a rest. -/
theorem eq_copies_of_chunks {f : Nat → List Byte} {x : List Byte} (hrest : ∀ n < 64, f n = x.take n)
    (hchunk : ∀ n, f (64 + n) = x ++ f n) (n : Nat) : f n = rep x (n / 64) ++ x.take (n % 64) := by
  induction n using Nat.strong_induction_on with
  | _ n ih =>
    by_cases hn : n < 64
    · rw [hrest n hn, Nat.div_eq_of_lt hn, Nat.mod_eq_of_lt hn, rep_zero, List.nil_append]
    · obtain ⟨m, rfl⟩ := Nat.exists_eq_add_of_le (Nat.not_lt.1 hn)
      rw [hchunk, ih m (by omega), Nat.add_div_left m (by decide), Nat.add_mod_left, rep_succ, List.append_assoc]

theorem cover_of_lt (alt : Digest) {n : Nat} (h : n < 64) : cover alt n = alt.toList.take n := by
  rcases Nat.eq_zero_or_pos n with rfl | hn
  · rfl
  · rw [cover_of_pos alt hn, Nat.min_eq_left (by omega), Nat.sub_self, cover_zero, List.append_nil]

theorem cover_chunk_add (alt : Digest) (n : Nat) : cover alt (64 + n) = alt.toList ++ cover alt n := by
  rw [cover_of_pos alt (by omega), Nat.min_eq_right (by omega), Nat.add_sub_cancel_left,
    List.take_of_length_le (by simp)]

theorem cover_eq_copies (alt : Digest) (n : Nat) : cover alt n = rep alt.toList (n / 64) ++ alt.toList.take (n % 64) :=
  eq_copies_of_chunks (fun _ => cover_of_lt alt) (cover_chunk_add alt) n

@[simp] theorem cover_length (alt : Digest) (n : Nat) : (cover alt n).length = n := by
  rw [cover_eq_copies, List.length_append, rep_length, List.length_take, Vector.length_toList]
  omega

theorem stretch_of_le (d : Digest) {n : Nat} (h : n ≤ 64) : stretch d n = d.toList.take n := by
  apply List.ext_getElem
  · simpa using h
  · intro k hk _
    have hk64 : k < 64 := by rw [stretch_length] at hk; omega
    simp [stretch, Nat.mod_eq_of_lt hk64, List.getD_eq_getElem?_getD, hk64]

theorem stretch_chunk_add (d : Digest) (n : Nat) : stretch d (64 + n) = d.toList ++ stretch d n := by
  have hfirst : stretch d 64 = d.toList := by rw [stretch_of_le d (Nat.le_refl 64), List.take_of_length_le (by simp)]
  calc stretch d (64 + n) = stretch d 64 ++ stretch d n := by
        simp only [stretch, List.range_add, List.map_append, List.map_map, Function.comp_def, Nat.add_mod_left]
    _ = d.toList ++ stretch d n := by rw [hfirst]

theorem stretch_eq_copies (d : Digest) (n : Nat) : stretch d n = rep d.toList (n / 64) ++ d.toList.take (n % 64) :=
  eq_copies_of_chunks (fun _ h => stretch_of_le d (Nat.le_of_lt h)) (stretch_chunk_add d) n

/-! ### The binary digits of the length (00_scope.md R8, 42_main_sum.md R130) -/

theorem bitlen_eq_length_digits (v : Nat) : bitlen v = (Nat.digits 2 v).length := by
  by_cases hv : v = 0
  · subst hv
    rfl
  · rw [bitlen, if_neg hv, Nat.log2_eq_log_two, Nat.length_digits 2 v (by decide) hv]

theorem ones_le_bitlen (v : Nat) : ones v ≤ bitlen v :=
  (List.length_filter_le _ _).trans_eq List.length_range

theorem ones_of_ne_zero {v : Nat} (hv : v ≠ 0) : ones v = v % 2 + ones (v / 2) := by
  have hrest : (List.range (bitlen (v / 2))).countP (v.testBit ∘ Nat.succ) = ones (v / 2) := by
    simp only [ones, ← List.countP_eq_length_filter, Function.comp_def, Nat.succ_eq_add_one, Nat.testBit_succ]
  rw [ones, bitlen_of_ne_zero hv, ← List.countP_eq_length_filter, List.range_succ_eq_map, List.countP_cons,
    List.countP_map, hrest, Nat.testBit_zero, Nat.add_comm]
  rcases Nat.mod_two_eq_zero_or_one v with h | h <;> simp [h]

/-- The binary digits weighted by `a` for a 1 and by `b` for a 0. -/
theorem sum_digits_two (a b v : Nat) :
    ((Nat.digits 2 v).map fun d => if d = 1 then a else b).sum = a * ones v + b * (bitlen v - ones v) := by
  induction v using Nat.strong_induction_on with
  | _ v ih =>
    by_cases hv : v = 0
    · subst hv
      simp [ones, bitlen]
    · have hle : ones (v / 2) ≤ bitlen (v / 2) := ones_le_bitlen _
      rw [Nat.digits_def' Nat.one_lt_two (Nat.pos_of_ne_zero hv), List.map_cons, List.sum_cons,
        ih _ (by omega), ones_of_ne_zero hv, bitlen_of_ne_zero hv]
      rcases Nat.mod_two_eq_zero_or_one v with h | h
      · rw [h, if_neg (by decide), Nat.zero_add, Nat.succ_sub hle, Nat.mul_succ]
        omega
      · rw [h, if_pos rfl, Nat.add_comm 1, Nat.add_sub_add_right, Nat.mul_succ]
        omega

theorem bits_eq_ite (alt : Digest) (pw : List Byte) (v : Nat) :
    bits alt pw v = if v = 0 then [] else (if v % 2 = 1 then alt.toList else pw) ++ bits alt pw (v / 2) := by
  split
  next hv => rw [hv, bits_zero]
  next hv => exact bits_of_ne_zero alt pw hv

theorem bits_length (alt : Digest) (pw : List Byte) (v : Nat) :
    (bits alt pw v).length = ((Nat.digits 2 v).map fun d => if d = 1 then 64 else pw.length).sum := by
  induction v using Nat.strong_induction_on with
  | _ v ih =>
    by_cases hv : v = 0
    · subst hv
      simp
    · rw [bits_of_ne_zero alt pw hv, Nat.digits_def' Nat.one_lt_two (Nat.pos_of_ne_zero hv), List.length_append,
        ih _ (by omega), List.map_cons, List.sum_cons, apply_ite List.length, Vector.length_toList]

theorem mainMsg_length (pw salt : List Byte) (alt : Digest) :
    (mainMsg pw salt alt).length =
      2 * pw.length + salt.length + ((Nat.digits 2 pw.length).map fun d => if d = 1 then 64 else pw.length).sum := by
  simp only [mainMsg, List.length_append, cover_length, bits_length]
  omega

theorem mainMsg_length_eq_mainBytes (pw salt : List Byte) (alt : Digest) :
    (mainMsg pw salt alt).length = mainBytes pw.length salt.length := by
  rw [mainMsg_length, sum_digits_two, mainBytes, ← Nat.add_assoc]

/-! ### The rounds (44_round_mixing.md R162, 70_reset_and_hazards.md R263) -/

/-- A round asks only whether 2, 3 and 7 divide its number, and each divides 42. -/
theorem roundMsg_mod (r : Nat) (x : Digest) (p s : List Byte) : roundMsg r x p s = roundMsg (r % 42) x p s := by
  have h2 : r % 42 % 2 = r % 2 := Nat.mod_mod_of_dvd r (by decide)
  have h3 : r % 42 % 3 = r % 3 := Nat.mod_mod_of_dvd r (by decide)
  have h7 : r % 42 % 7 = r % 7 := Nat.mod_mod_of_dvd r (by decide)
  rw [roundMsg, roundMsg, h2, h3, h7]

theorem roundMsg_length (r : Nat) (x : Digest) (p s : List Byte) :
    (roundMsg r x p s).length = roundBytes r p.length s.length := by
  simp only [roundMsg, roundBytes, List.length_append, apply_ite List.length, Vector.length_toList, List.length_nil]
  split_ifs <;> omega

/-- Of the numbers below `n`, those that `k + 1` divides are `n / (k + 1)` rounded up. -/
theorem count_mod_ne_zero_add_div (k n : Nat) : Nat.count (fun r => r % (k + 1) ≠ 0) n + (n + k) / (k + 1) = n := by
  induction n with
  | zero => simp
  | succ n ih =>
    have hdvd : k + 1 ∣ n + k + 1 ↔ n % (k + 1) = 0 := by
      rw [Nat.add_assoc, Nat.dvd_add_self_right, Nat.dvd_iff_mod_eq_zero]
    rw [Nat.count_succ, Nat.add_right_comm n 1 k, Nat.succ_div]
    simp only [hdvd]
    split_ifs <;> omega

theorem sum_roundBytes (len saltLen n : Nat) :
    ((List.range n).map fun r => roundBytes r len saltLen).sum =
      n * 64 + (n + Nat.count (fun r => r % 7 ≠ 0) n) * len + Nat.count (fun r => r % 3 ≠ 0) n * saltLen := by
  induction n with
  | zero => simp
  | succ n ih =>
    rw [List.range_succ, List.map_append, List.sum_append, ih, List.map_singleton, List.sum_singleton, roundBytes,
      Nat.count_succ, Nat.count_succ]
    split_ifs <;> ring

end Machine

/-- Settles O48, from the recursions of the functions and the count of each round's feeds. -/
theorem functionEquations : Obligations.FunctionEquations := by
  refine ⟨cover_eq_copies, bits_eq_ite, fun _ => stretch_eq_copies _ _, mainMsg_length, mainMsg_length_eq_mainBytes,
    roundMsg_mod, roundMsg_length, fun len saltLen => ?_, bitlen_eq_length_digits⟩
  have h3 : Nat.count (fun r => r % 3 ≠ 0) 5000 = 3333 := Nat.eq_sub_of_add_eq (count_mod_ne_zero_add_div 2 5000)
  have h7 : Nat.count (fun r => r % 7 ≠ 0) 5000 = 4285 := Nat.eq_sub_of_add_eq (count_mod_ne_zero_add_div 6 5000)
  rw [sum_roundBytes, h3, h7]

end Sys2Proof

/-! ## The sequence-construction stage (43_sequence_construction.md R141 to R150) -/

namespace Sys2Proof

open Machine

/-- Settles O17: each of the two is `DIG.START` with the load of `CNT` behind it. -/
theorem loadCounters : Obligations.LoadCounters :=
  ⟨rfl, rfl, fun s => ⟨portOutcome_pInit s, portOutcome_sInit s⟩⟩

/-- Settles O22: `DIG.FEED` of one more copy while some are left to feed, and the exits. -/
theorem copyLoopSteps : Obligations.CopyLoopSteps :=
  ⟨rfl, rfl, fun _ =>
    ⟨fun hc ho hfit => ⟨portOutcome_pRep ho hfit hc, portOutcome_sRep ho hfit hc⟩,
      fun hc => ⟨exec_pRep_exit hc, exec_sRep_exit hc⟩⟩⟩

namespace Machine

/-! ### The fills byte by byte -/

/-- A buffer after the store of a stretched digest at its start (R144). -/
theorem Memory.read_writeRange_stretch {m : Memory} (h : m.wf) (d : Digest) (n k : Nat) :
    (m.writeRange 0 (stretch d n)).read k = if k < n then d.toList.getD (k % 64) 0#8 else m.read k := by
  rw [Memory.read_writeRange h, stretch_length, Nat.sub_zero]
  by_cases hk : k < n
  · rw [if_pos ⟨Nat.zero_le k, by omega⟩, if_pos hk, stretch_getD d hk]
  · rw [if_neg (by omega), if_neg hk]

/-- A buffer after the store of the first bytes of a digest at its start (R149). -/
theorem Memory.read_writeRange_take {m : Memory} (h : m.wf) (d : Digest) {n : Nat} (hn : n ≤ 64) (k : Nat) :
    (m.writeRange 0 (d.toList.take n)).read k = if k < n then d.toList.getD k 0#8 else m.read k := by
  rw [← stretch_of_le d hn, Memory.read_writeRange_stretch h]
  by_cases hk : k < n
  · rw [if_pos hk, if_pos hk, Nat.mod_eq_of_lt (by omega)]
  · rw [if_neg hk, if_neg hk]

end Machine

/-- Settles O24: each fill is one store at the start of its buffer, read byte by byte. -/
theorem sequenceFills : Obligations.SequenceFills := by
  refine ⟨rfl, rfl, fun s hfit => ⟨fun hp => ⟨_, exec_pFill hfit, ?_⟩, fun hs => ⟨_, exec_sFill hfit, ?_⟩⟩⟩
  · exact Memory.read_writeRange_stretch hp s.eng.dp s.eng.pwLen
  · exact Memory.read_writeRange_take hs s.eng.ds (hfit.2.trans (by decide))

/-! ### The two parts one behind the other (R150) -/

/-- Draws one behind the other from the same state add up. -/
theorem Machine.State.after_after (s : State) (m n : Nat) (e e' : Engine) :
    (s.after m e).after n e' = s.after (m + n) e' := by
  simp only [State.after, State.drawn, List.drop_drop, Nat.add_assoc]

/-- Settles O56: the runs of the P part and of the S part, and the two sequences read back from their buffers. -/
theorem sequenceStage : Obligations.SequenceStage := by
  intro s hag hst hfit hmem len b0 hok
  have hP : BusyRun (1 + (len + 1) + 1 + 1) s (s.after (0 + (len + 2)) s.eng.afterPSeq) :=
    busyRun_pSequence (n := 0) hag hok hst hfit (by omega)
  rw [Nat.zero_add] at hP
  have hb0 : s.eng.afterPSeq.byteAt .result 0 = b0 := by
    rw [Engine.byteAt_result_zero, Engine.afterPSeq_result, ← Engine.byteAt_result_zero]
  have hS : BusyRun (1 + (16 + b0.toNat + 1) + 1 + 1) (s.after (len + 2) s.eng.afterPSeq)
      ((s.after (len + 2) s.eng.afterPSeq).after (18 + b0.toNat) s.eng.afterPSeq.afterSSeq) := by
    rw [State.after_after]
    exact busyRun_sSequence hag hok hb0 s.eng.afterPSeq_stage (by simpa [State.inputsFit] using hfit) (Nat.le_refl _)
  have hds : s.eng.afterPSeq.afterSSeq.ds = dsOf s.eng.saltBytes b0 := by
    rw [Engine.afterSSeq, hb0, Engine.afterPSeq_saltBytes]
  have hsBytes : s.eng.afterPSeq.afterSSeq.sBytes = sSeq s.eng.saltBytes b0 := by
    rw [Engine.afterSSeq_sBytes (by simpa using hmem.sBuf) (by simpa using hfit.2), hb0, Engine.afterPSeq_saltBytes]
  refine ⟨_, _, hP.run_eq, rfl, Engine.afterPSeq_pBytes hmem.pBuf, hS.run_eq, ?_, hsBytes⟩
  rw [← hds]
  rfl

end Sys2Proof

/-! ## The round-mixing stage (44_round_mixing.md R156 to R163) -/

namespace Sys2Proof

open Machine

/-- Settles O57: 4999 rounds that lead to the next one, by induction on them, and the last. -/
theorem roundStage : Obligations.RoundStage := by
  intro s hag hst hr0 hfit hok
  have hrun : BusyRun 30000 s (s.after (0 + 27618) s.eng.afterRounds) :=
    busyRun_rounds (n := 0) hag hok hst hr0 hfit (Nat.le_of_eq (Nat.zero_add 27618))
  rw [Nat.zero_add] at hrun
  exact hrun.run_eq

/-- Settles O25: `DIG.FEED` of the range that the parity of `R` selects, or of the middle part of the round; where 3 or 7
divides `R` that part is left out and the turn goes straight on. -/
theorem roundFeeds : Obligations.RoundFeeds :=
  ⟨rfl, rfl, rfl, rfl, fun _ ho hfit =>
    ⟨portOutcome_rF1 ho hfit, portOutcome_rF2 ho hfit, exec_rF2_skip, portOutcome_rF3 ho hfit, exec_rF3_skip,
      portOutcome_rF4 ho hfit⟩⟩

/-- Settles O26: `DIG.FINAL` with the write of `RESULT` behind it, on either side of the test at the bottom of the round. -/
theorem roundEnds : Obligations.RoundEnds :=
  ⟨rfl, fun _ ho => ⟨portOutcome_rFin_next ho, portOutcome_rFin_last ho⟩⟩

end Sys2Proof

/-! ## The encoding stage (45_encoding_stage.md R171 to R176) -/

namespace Sys2Proof

open Machine

section
variable {s : State} (hag : s.agenda = []) (hst : s.eng.stage = 26#5) (hfit : s.inputsFit)
include hag hst hfit

/-! ### The state after each step but the last (R176) -/

theorem busyRun_to_withGroups {k : Nat} (hk : k ≤ 21) : BusyRun (1 + k) s (s.after 0 (s.eng.withGroups k)) := by
  have hHead : BusyRun 1 s (s.after 0 (s.eng.withGroups 0)) := by
    refine .single hag (by rw [hst]; rfl) ((exec_ePrefix hfit).trans ?_)
    rw [Engine.withGroups, groupChars, List.range_zero, List.map_nil, List.flatten_nil, List.append_nil]
    rfl
  exact hHead.trans (busyRun_groups hag hfit.2 k hk)

theorem busyRun_to_eLast : BusyRun 23 s (s.after 0 { s.eng.withGroups 21 with stage := 28#5 }) :=
  (busyRun_to_withGroups hag hst hfit (Nat.le_refl 21)).trans
    (.quiet hag rfl (exec_eGroup_exit (Nat.le_of_eq (Engine.withGroups_g (Nat.le_refl 21)).symm)))

end

/-- Settles O58: the runs to the groups and past their exit for `OUTLEN`, and the run of the whole stage, for which no answer
is drawn. -/
theorem encodingStage : Obligations.EncodingStage := by
  intro s hag hst hfit hout
  have hstage : BusyRun 24 s (s.after 0 s.eng.afterEncoding) := busyRun_encoding (n := 0) hag hst hfit
  refine ⟨fun k hk => ?_, _, hstage.run_eq, rfl, Engine.afterEncoding_outBytes hout hfit.2⟩
  rcases Nat.lt_or_eq_of_le hk with hlt | rfl
  · have hk21 : k ≤ 21 := Nat.le_of_lt_succ hlt
    refine ⟨_, (busyRun_to_withGroups hag hst hfit hk21).run_eq, ?_⟩
    rw [Nat.min_eq_left hk21]
    exact Engine.withGroups_outLen hfit.2 hk21
  · exact ⟨_, (busyRun_to_eLast hag hst hfit).run_eq, Engine.withGroups_outLen hfit.2 (Nat.le_refl 21)⟩

/-! ### The three operations, byte by byte -/

/-- Settles O27: one store of the head of the output at the start of `OUT`. -/
theorem prefixWritten : Obligations.PrefixWritten := by
  refine ⟨rfl, fun s hfit hout => ⟨_, exec_ePrefix hfit, fun k => ?_⟩⟩
  have hlen : (tagChars ++ s.eng.saltBytes ++ [dollar]).length = 4 + s.eng.saltLen.toNat := by
    simp only [List.length_append, Engine.saltBytes_length, tagChars, List.length_cons, List.length_nil]
    omega
  rw [Memory.read_writeRange hout, hlen, Nat.zero_add, Nat.sub_zero]
  simp only [Nat.zero_le, true_and]
  rfl

/-- Settles O28: one store of the four characters of the triple while `G < 21`, and the exit. -/
theorem groupEncoded : Obligations.GroupEncoded := by
  refine ⟨rfl, fun s => ⟨fun hg hlen hout => ⟨_, exec_eGroup hg hlen, fun k => ?_⟩, exec_eGroup_exit⟩⟩
  rw [Memory.read_writeRange hout, enc_length]
  refine if_ctx_congr Iff.rfl (fun hk => ?_) fun _ => rfl
  rw [enc_getD _ (by omega), tripleValue_toNat, perm_eq_closedTriple hg]

/-- Settles O29: one store of the two characters of byte 63, with the zeroisation behind it. -/
theorem lastEncoded : Obligations.LastEncoded := by
  refine ⟨rfl, fun s hlen hout => ⟨_, exec_eLast hlen, fun k => ?_⟩⟩
  rw [Memory.read_writeRange hout, enc_length]
  by_cases hlow : k = s.eng.outLen.toNat
  · rw [if_pos (by omega), if_pos hlow, enc_getD _ (by omega), lastValue_toNat, hlow, Nat.sub_self, Nat.mul_zero,
      Nat.pow_zero, Nat.div_one]
  by_cases htop : k = s.eng.outLen.toNat + 1
  · rw [if_pos (by omega), if_neg hlow, if_pos htop, enc_getD _ (by omega), lastValue_toNat, htop,
      Nat.add_sub_cancel_left, Nat.mul_one, Nat.mod_eq_of_lt ((byteVal_top_lt _ 63).trans (by decide))]
  · rw [if_neg (by omega), if_neg hlow, if_neg htop]

end Sys2Proof

/-! ## The host commands (46_host_commands.md R181 to R188) -/

namespace Sys2Proof

open Machine

section
variable {s : State}

/-! ### The commands without a test, and the rejections by class of `STAGE` -/

theorem exec_nop : exec .nop s = .next (s.replied s.eng 0x8000#16) := rfl

theorem next_reject (c : RejCause) : (.next (s.reject c) : Out) = .next (s.rejected c.code) :=
  congrArg _ (s.reject_eq_rejected c)

theorem exec_illegalOp7 (low : BitVec 12) : exec (.illegalOp7 low) s = .next (s.rejected 1#3) :=
  next_reject .illegalOpcode

theorem exec_illegalOp8to15 (low : BitVec 15) : exec (.illegalOp8to15 low) s = .next (s.rejected 1#3) :=
  next_reject .illegalOpcode

/-- What stands behind the test of the class does not matter where the class is the wrong one. -/
theorem wrongState_of_test {c : Bool} (hc : c = false) (o : Out) :
    (if !c then .next (s.reject .wrongState) else o) = .next (s.rejected 3#3) := by
  rw [hc]
  exact next_reject .wrongState

theorem exec_pushp_wrongState (b : Byte) (h : s.eng.stage ≠ 0#5) : exec (.pushp b) s = .next (s.rejected 3#3) :=
  wrongState_of_test (beq_false_of_ne h) _

theorem exec_pushs_wrongState (b : Byte) (h : s.eng.stage ≠ 0#5) : exec (.pushs b) s = .next (s.rejected 3#3) :=
  wrongState_of_test (beq_false_of_ne h) _

theorem exec_start_wrongState (h : s.eng.stage ≠ 0#5) : exec .start s = .next (s.rejected 3#3) :=
  wrongState_of_test (beq_false_of_ne h) _

theorem exec_popc_wrongState (h : s.eng.stage ≠ 29#5) : exec .popc s = .next (s.rejected 3#3) :=
  wrongState_of_test (beq_false_of_ne h) _

theorem Machine.Engine.acceptsClr_iff_mem (e : Engine) : e.acceptsClr = true ↔ e.stage ∈ [0#5, 29#5, 30#5] := by
  simpa using e.acceptsClr_iff

theorem exec_clr_wrongState (h : s.eng.stage ∉ [0#5, 29#5, 30#5]) : exec .clr s = .next (s.rejected 3#3) :=
  (if_neg (mt s.eng.acceptsClr_iff_mem.1 h)).trans (next_reject .wrongState)

/-! ### The accepted commands -/

theorem exec_clr (h : s.eng.stage ∈ [0#5, 29#5, 30#5]) : exec .clr s = .next (s.replied Engine.reset 0x8000#16) :=
  if_pos (s.eng.acceptsClr_iff_mem.2 h)

theorem idleTest_passed (h : s.eng.stage = 0#5) : ¬(!s.eng.isIdle) = true := by simp [Engine.isIdle, h]

theorem doneTest_passed (h : s.eng.stage = 29#5) : ¬(!s.eng.isDone) = true := by simp [Engine.isDone, h]

theorem exec_start (h : s.eng.stage = 0#5) : exec .start s = .next (s.replied { s.eng with stage := 1#5 } 0x8000#16) :=
  if_neg (idleTest_passed h)

/-- The engine with the bytes `v` stored behind the password that it holds (R183). -/
def Machine.Engine.withPw (e : Engine) (v : List Byte) : Engine :=
  { e with pw := e.pw.writeRange e.pwLen v, pwLen := e.pwLen + v.length }

theorem exec_pushp (b : Byte) (h : s.eng.stage = 0#5) (hlen : s.eng.pwLen < s.cfg.pwMax) :
    exec (.pushp b) s = .next (s.replied (s.eng.withPw [b]) 0x8000#16) :=
  calc exec (.pushp b) s
    _ = _ := if_neg (idleTest_passed h)
    _ = _ := if_neg hlen.ne
    _ = _ := memWrite_of_le (sp := .pw) (v := [b]) _ hlen

theorem exec_pushp_full (b : Byte) (h : s.eng.stage = 0#5) (hfull : s.eng.pwLen = s.cfg.pwMax) :
    exec (.pushp b) s =
      .next (s.replied (Engine.faulted { s.eng with cmdErr := true, rejCode := 7#3 } 1#2) 0x7000#16) :=
  (if_neg (idleTest_passed h)).trans (if_pos hfull)

/-- The engine with the bytes `v` stored behind the salt that it holds (R184). -/
def Machine.Engine.withSalt (e : Engine) (v : List Byte) : Engine :=
  { e with salt := e.salt.writeRange e.saltLen.toNat v, saltLen := e.saltLen + BitVec.ofNat 5 v.length }

theorem exec_pushs (b : Byte) (h : s.eng.stage = 0#5) (hlen : s.eng.saltLen.toNat < 16) :
    exec (.pushs b) s = .next (s.replied (s.eng.withSalt [b]) 0x8000#16) :=
  calc exec (.pushs b) s
    _ = _ := if_neg (idleTest_passed h)
    _ = _ := if_pos hlen
    _ = _ := memWrite_of_le (sp := .salt) (v := [b]) _ hlen

theorem exec_pushs_dropped (b : Byte) (h : s.eng.stage = 0#5) (hfull : 16 ≤ s.eng.saltLen.toNat) :
    exec (.pushs b) s = .next (s.replied s.eng 0x8000#16) :=
  (if_neg (idleTest_passed h)).trans (if_neg hfull.not_gt)

theorem exec_popc (h : s.eng.stage = 29#5) (hlt : s.eng.outPtr.toNat < s.eng.outLen.toNat)
    (hlen : s.eng.outLen.toNat ≤ 106) :
    exec .popc s =
      .next (s.replied { s.eng with outPtr := s.eng.outPtr + 1#7 } (okWord (s.eng.out.read s.eng.outPtr.toNat))) := by
  have hne : s.eng.outPtr ≠ s.eng.outLen := fun heq => hlt.ne (congrArg BitVec.toNat heq)
  rw [← ackWord_eq_okWord]
  calc exec .popc s
    _ = _ := if_neg (doneTest_passed h)
    _ = _ := if_neg hne
    _ = _ := memRead_of_le (sp := .out) (n := 1) _ (hlt.trans_le hlen)

theorem exec_popc_outEmpty (h : s.eng.stage = 29#5) (heq : s.eng.outPtr = s.eng.outLen) :
    exec .popc s = .next (s.rejected 4#3) :=
  calc exec .popc s
    _ = _ := if_neg (doneTest_passed h)
    _ = .next (s.reject .outEmpty) := if_pos heq
    _ = _ := next_reject .outEmpty

theorem exec_rdreg {sel d : Byte} (h : s.eng.selected sel = some d) :
    exec (.rdreg sel) s = .next (s.replied s.eng (okWord d)) := by
  change execRdreg sel s = _
  rw [execRdreg, h, ← ackWord_eq_okWord]
  rfl

theorem exec_rdreg_badSelector {sel : Byte} (h : s.eng.selected sel = none) :
    exec (.rdreg sel) s = .next (s.rejected 5#3) := by
  change execRdreg sel s = _
  rw [execRdreg, h]
  exact next_reject .badSelector

end

/-! ### Their words with a reserved bit set -/

/-- The second class of R86, opcode by opcode. -/
theorem rejectsReserved_of_lt {op : Nat} (hop : op < 7) (s : State) : rejectsReserved op s := by
  rintro w rfl hbits
  have hclass := wordClassification w s
  rwa [if_neg hop.not_ge, if_pos hbits] at hclass

/-! ### The commands one by one -/

/-- Settles O6: `NOP` is answered only, and `START` asks for `IDLE`. -/
theorem nopAndStartComplete : Obligations.NopAndStartComplete :=
  ⟨rfl, rfl, fun s => ⟨exec_nop, exec_start, exec_start_wrongState, rejectsReserved_of_lt (by decide) s,
    rejectsReserved_of_lt (by decide) s⟩⟩

/-- Settles O7: an accepted `CLR` puts the engine of R39 in place. -/
theorem clrCompletes : Obligations.ClrCompletes :=
  ⟨rfl, fun s => ⟨fun h => ⟨_, exec_clr h, Engine.reset_allZero, rfl⟩, exec_clr_wrongState,
    rejectsReserved_of_lt (by decide) s⟩⟩

/-- Settles O8: one store at `PWLEN` while there is room, and the two other answers. -/
theorem pushpCompletes : Obligations.PushpCompletes := fun b s =>
  ⟨rfl, fun hidle hlen hwf => ⟨_, exec_pushp b hidle hlen, Memory.read_write hwf s.eng.pwLen b⟩,
    exec_pushp_full b, exec_pushp_wrongState b, rejectsReserved_of_lt (by decide) s⟩

/-- Settles O9: one store at `SALTLEN` while fewer than 16 bytes are held, and the two other answers. -/
theorem pushsCompletes : Obligations.PushsCompletes := fun b s =>
  ⟨rfl, fun hidle hlen hwf => ⟨_, exec_pushs b hidle hlen, Memory.read_write hwf s.eng.saltLen.toNat b⟩,
    exec_pushs_dropped b, exec_pushs_wrongState b, rejectsReserved_of_lt (by decide) s⟩

/-- Settles O10: one read of `OUT` while bytes are left in `DONE`, and the two rejections. -/
theorem popcCompletes : Obligations.PopcCompletes :=
  ⟨rfl, fun s => ⟨exec_popc, exec_popc_outEmpty, exec_popc_wrongState, rejectsReserved_of_lt (by decide) s⟩⟩

/-! The two registers that a selector shows in part (10_state.md R36). -/

theorem Machine.Engine.selected_rHigh (e : Engine) : e.selected 0x08#8 = some (BitVec.ofNat 8 (e.r.toNat / 2 ^ 8)) := by
  have hbyte : (e.r.extractLsb' 8 5).setWidth 8 = BitVec.ofNat 8 (e.r.toNat / 2 ^ 8) := by
    apply BitVec.eq_of_toNat_eq
    rw [BitVec.toNat_setWidth, BitVec.extractLsb'_toNat, BitVec.toNat_ofNat, Nat.shiftRight_eq_div_pow]
    omega
  exact congrArg some hbyte

theorem Machine.Engine.selected_pwLen (e : Engine) {j : Nat} (hj : j < 4) :
    e.selected (0x10#8 + BitVec.ofNat 8 j) = some (BitVec.ofNat 8 (e.pwLen / 2 ^ (8 * j))) := by
  have hbyte : (BitVec.ofNat 32 e.pwLen).extractLsb' (8 * j) 8 = BitVec.ofNat 8 (e.pwLen / 2 ^ (8 * j)) := by
    apply BitVec.eq_of_getLsbD_eq
    intro i hi
    rw [← Nat.shiftRight_eq_div_pow, BitVec.getLsbD_extractLsb', BitVec.getLsbD_ofNat, BitVec.getLsbD_ofNat,
      Nat.testBit_shiftRight]
    simp [show 8 * j + i < 32 by omega]
  rw [← hbyte]
  match j, hj with
  | 0, _ | 1, _ | 2, _ | 3, _ => rfl

theorem Machine.Engine.selected_reserved (e : Engine) {sel : Byte} (hlow : 0x09 ≤ sel.toNat)
    (hsel : sel.toNat ≤ 0x0F ∨ 0x14 ≤ sel.toNat) : e.selected sel = none := by
  unfold Engine.selected
  split
  case h_14 => rfl
  all_goals omega

/-- Settles O11, selector by selector. -/
theorem rdregCompletes : Obligations.RdregCompletes := fun s =>
  ⟨exec_rdreg rfl, exec_rdreg rfl, exec_rdreg rfl, exec_rdreg rfl, exec_rdreg rfl, exec_rdreg rfl, exec_rdreg rfl,
    exec_rdreg rfl, exec_rdreg s.eng.selected_rHigh, fun _ hj => exec_rdreg (s.eng.selected_pwLen hj),
    fun _ hlow hsel => exec_rdreg_badSelector (s.eng.selected_reserved hlow hsel), rejectsReserved_of_lt (by decide) s,
    fun _ => rfl⟩

/-- Settles O12: the two rows, and the first class of R86. -/
theorem illegalWordsRejected : Obligations.IllegalWordsRejected := by
  refine fun s => ⟨exec_illegalOp7, exec_illegalOp8to15, fun w hop => ?_⟩
  have hclass := wordClassification w s
  rwa [if_pos hop] at hclass

end Sys2Proof

/-! ## Which command is accepted where, and its response (46_host_commands.md R180, R189) -/

namespace Sys2Proof

open Machine

/-- The outcome is a next state, with one response more than `s` has, and it meets `P`. -/
def AnsweredBy (P : Word16 → Prop) (s : State) (o : Out) : Prop :=
  ∃ t r, o = .next t ∧ t.responses = s.responses ++ [r] ∧ P r

/-- The responses of a command in a class of `STAGE` that accepts it (30_encoding.md R81, R88). -/
def AcceptedResponse (r : Word16) : Prop := (∃ d, r = okWord d) ∨ r ∈ [0x4000#16, 0x5000#16, 0x7000#16]

/-- The pairs of R189's table that are accepted, for the commands with operand `b`. -/
def AcceptedIn (e : Engine) (b : Byte) (i : Instr) : Prop :=
  i ∈ [.nop, .rdreg b] ∨ (e.stage ∈ [0#5, 29#5, 30#5] ∧ i = .clr) ∨
    (e.stage = 0#5 ∧ i ∈ [.pushp b, .pushs b, .start]) ∨ (e.stage = 29#5 ∧ i = .popc)

section
variable {s : State} {b : Byte} {i : Instr}

theorem AnsweredBy.of_replied {P : Word16 → Prop} {e : Engine} {r : Word16} (h : exec i s = .next (s.replied e r))
    (hr : P r) : AnsweredBy P s (exec i s) :=
  ⟨_, r, h, rfl, hr⟩

theorem acceptedResponse_okWord (d : Byte) : AcceptedResponse (okWord d) := .inl ⟨d, rfl⟩

theorem AcceptedResponse.ne_wrongState {r : Word16} (h : AcceptedResponse r) : r ≠ 0x3000#16 := by
  rintro rfl
  obtain ⟨d, hd⟩ | hr := h
  · have hhigh := congrArg (BitVec.extractLsb' 8 8) hd
    rw [okWord, BitVec.extractLsb'_append_eq_left] at hhigh
    exact absurd hhigh (by decide)
  · exact absurd hr (by decide)

theorem exec_rdreg_answered (sel : Byte) : AnsweredBy AcceptedResponse s (exec (.rdreg sel) s) := by
  cases h : s.eng.selected sel with
  | some d => exact .of_replied (exec_rdreg h) (acceptedResponse_okWord d)
  | none => exact .of_replied (exec_rdreg_badSelector h) (.inr (by decide))

section
variable (hb : s.eng.Bounded s.cfg)
include hb

theorem exec_pushp_answered (b : Byte) (h : s.eng.stage = 0#5) :
    AnsweredBy AcceptedResponse s (exec (.pushp b) s) := by
  rcases hb.pwLen_le.lt_or_eq with hlen | hfull
  · exact .of_replied (exec_pushp b h hlen) (acceptedResponse_okWord 0#8)
  · exact .of_replied (exec_pushp_full b h hfull) (.inr (by decide))

theorem exec_popc_answered (h : s.eng.stage = 29#5) : AnsweredBy AcceptedResponse s (exec .popc s) := by
  rcases hb.outPtr_le.lt_or_eq with hlt | heq
  · exact .of_replied (exec_popc h hlt hb.outLen_le) (acceptedResponse_okWord _)
  · exact .of_replied (exec_popc_outEmpty h (BitVec.eq_of_toNat_eq heq)) (.inr (by decide))

end

theorem exec_pushs_answered (b : Byte) (h : s.eng.stage = 0#5) :
    AnsweredBy AcceptedResponse s (exec (.pushs b) s) := by
  rcases Nat.lt_or_ge s.eng.saltLen.toNat 16 with hlen | hfull
  · exact .of_replied (exec_pushs b h hlen) (acceptedResponse_okWord 0#8)
  · exact .of_replied (exec_pushs_dropped b h hfull) (acceptedResponse_okWord 0#8)

/-- A command in a class that accepts it completes, and its response is not `WRONG_STATE`. -/
theorem AcceptedIn.answered (hi : AcceptedIn s.eng b i) (hb : s.eng.Bounded s.cfg) :
    AnsweredBy AcceptedResponse s (exec i s) := by
  simp only [AcceptedIn, List.mem_cons, List.not_mem_nil, or_false] at hi
  obtain (rfl | rfl) | ⟨h, rfl⟩ | ⟨h, rfl | rfl | rfl⟩ | ⟨h, rfl⟩ := hi
  · exact .of_replied exec_nop (acceptedResponse_okWord 0#8)
  · exact exec_rdreg_answered b
  · exact .of_replied (exec_clr (by simpa using h)) (acceptedResponse_okWord 0#8)
  · exact exec_pushp_answered hb b h
  · exact exec_pushs_answered b h
  · exact .of_replied (exec_start h) (acceptedResponse_okWord 0#8)
  · exact exec_popc_answered hb h

/-- The other pairs of R189's table are rejected. -/
theorem exec_wrongState_of_not_acceptedIn (hi : i ∈ commandsWith b) (h : ¬AcceptedIn s.eng b i) :
    exec i s = .next (s.rejected 3#3) := by
  simp only [commandsWith, List.mem_cons, List.not_mem_nil, or_false] at hi
  obtain rfl | rfl | rfl | rfl | rfl | rfl | rfl := hi
  · exact absurd (.inl (by simp)) h
  · exact exec_clr_wrongState fun hst => h (.inr (.inl ⟨hst, rfl⟩))
  · exact exec_pushp_wrongState b fun hst => h (.inr (.inr (.inl ⟨hst, by simp⟩)))
  · exact exec_pushs_wrongState b fun hst => h (.inr (.inr (.inl ⟨hst, by simp⟩)))
  · exact exec_start_wrongState fun hst => h (.inr (.inr (.inl ⟨hst, by simp⟩)))
  · exact exec_popc_wrongState fun hst => h (.inr (.inr (.inr ⟨hst, rfl⟩)))
  · exact absurd (.inl (by simp)) h

end

/-- Settles O5: the classes of R86, and within the third the pairs of R189. -/
theorem everyWordOneResponse : Obligations.EveryWordOneResponse := by
  intro w s hb
  have hclass := wordClassification w s
  split at hclass
  next => exact ⟨_, _, hclass, rfl, .inr (by decide)⟩
  next =>
    split at hclass
    next => exact ⟨_, _, hclass, rfl, .inr (by decide)⟩
    next =>
      obtain ⟨i, hi, -, hx⟩ := hclass
      rw [hx]
      by_cases hacc : AcceptedIn s.eng (w.setWidth 8) i
      · obtain ⟨t, r, ht, hresp, hr⟩ := hacc.answered hb
        refine ⟨t, r, ht, hresp, hr.imp_right fun hmem => ?_⟩
        exact List.Sublist.subset (by decide) hmem
      · exact ⟨_, _, exec_wrongState_of_not_acceptedIn hi hacc, rfl, .inr (by decide)⟩

/-- An engine that differs from another one in the error registers only. -/
theorem Machine.Engine.eq_of_dataPath_eq {e e' : Engine} (h : e'.dataPath = e.dataPath) :
    e' = { e with cmdErr := e'.cmdErr, rejCode := e'.rejCode } := by
  calc e' = e'.dataPath.withErrors e' := rfl
    _ = e.dataPath.withErrors e' := by rw [h]

/-- Settles O14: the pairs of the table one way and the other, and what a command word can do while BUSY. -/
theorem acceptanceByClass : Obligations.AcceptanceByClass := by
  refine ⟨fun s b => ⟨fun hst i hi => ?_, exec_popc_wrongState,
    fun hbusy => exec_clr_wrongState (Engine.stage_not_mem_of_isBusy hbusy), fun hb i hi => ?_⟩, fun s t w hbusy h => ?_⟩
  · simp only [List.mem_cons, List.not_mem_nil, or_false] at hi
    obtain rfl | rfl | rfl := hi
    · exact exec_pushp_wrongState b hst
    · exact exec_pushs_wrongState b hst
    · exact exec_start_wrongState hst
  · obtain ⟨t, r, ht, hresp, hr⟩ := AcceptedIn.answered hi hb
    exact ⟨t, r, ht, hresp, hr.ne_wrongState⟩
  · obtain ⟨hframe, heff⟩ := hostStep_of_hostCmd h
    rw [← Engine.eq_of_dataPath_eq (heff.dataPath_eq hbusy)]
    exact hframe

end Sys2Proof

/-! ## Agendas taken one entry after the other (00_scope.md R11) -/

namespace Sys2Proof

open Machine

/-- The entries lead from the first state to the second, whatever stands on the agenda behind them. -/
inductive AgendaRun : List Event → State → State → Prop where
  | nil (s : State) : AgendaRun [] s s
  | cons {ev : Event} {evs : List Event} {s t u : State}
      (first : ∀ ag, runEvent ev { s with agenda := ag } = .next { t with agenda := ag }) (rest : AgendaRun evs t u) :
      AgendaRun (ev :: evs) s u

theorem AgendaRun.append {evs evs' : List Event} {s t u : State} (h : AgendaRun evs s t) (h' : AgendaRun evs' t u) :
    AgendaRun (evs ++ evs') s u := by
  induction h with
  | nil s => exact h'
  | cons first _ ih => exact .cons first (ih h')

theorem AgendaRun.run_eq {evs : List Event} {s t : State} (h : AgendaRun evs s t) :
    run evs.length { s with agenda := evs } = .next { t with agenda := [] } := by
  induction h with
  | nil s => rfl
  | @cons ev evs s t u first _ ih =>
    have hstep : step { s with agenda := ev :: evs } = .next { t with agenda := evs } :=
      (step_of_cons (s := { s with agenda := ev :: evs }) rfl).trans (first evs)
    exact (run_succ_of_step hstep evs.length).trans ih

/-! ### Commands -/

/-- The state after commands: another engine state, and their responses. -/
def Machine.State.repliedAll (s : State) (e : Engine) (rs : List Word16) : State :=
  { s with eng := e, responses := s.responses ++ rs }

theorem Machine.State.repliedAll_repliedAll (s : State) (e e' : Engine) (rs rs' : List Word16) :
    (s.repliedAll e rs).repliedAll e' rs' = s.repliedAll e' (rs ++ rs') := by
  simp only [State.repliedAll, List.append_assoc]

theorem AgendaRun.nil_replied (s : State) : AgendaRun [] s (s.repliedAll s.eng []) := by
  rw [State.repliedAll, List.append_nil]
  exact .nil s

theorem AgendaRun.command {s : State} {i : Instr} {w r : Word16} {e : Engine} (henc : encode i = .cmd16 w)
    (hx : ∀ ag, exec i { s with agenda := ag } = .next (State.replied { s with agenda := ag } e r)) :
    AgendaRun [.hostCmd w] s (s.repliedAll e [r]) :=
  .cons (fun ag => (hostCmd_of_decode (decodeCmd16_of_encode henc) _).trans (hx ag)) (.nil _)

/-- Commands behind commands. -/
theorem AgendaRun.append_replied {evs evs' : List Event} {s : State} {e e' : Engine} {rs rs' : List Word16}
    (h : AgendaRun evs s (s.repliedAll e rs))
    (h' : AgendaRun evs' (s.repliedAll e rs) ((s.repliedAll e rs).repliedAll e' rs')) :
    AgendaRun (evs ++ evs') s (s.repliedAll e' (rs ++ rs')) := by
  rw [State.repliedAll_repliedAll] at h'
  exact h.append h'

/-- Commands behind one. -/
theorem AgendaRun.command_then {ev : Event} {evs : List Event} {s : State} {e e' : Engine} {r : Word16}
    {rs : List Word16} (h : AgendaRun [ev] s (s.repliedAll e [r]))
    (h' : AgendaRun evs (s.repliedAll e [r]) ((s.repliedAll e [r]).repliedAll e' rs)) :
    AgendaRun (ev :: evs) s (s.repliedAll e' (r :: rs)) :=
  h.append_replied h'

/-! ### Turns of the sequencer -/

/-- A turn neither reads nor writes what stands behind it on the agenda. -/
theorem seqStep_withAgenda {s t : State} (h : seqStep s = .next t) (ag : List Event) :
    seqStep { s with agenda := ag } = .next { t with agenda := ag } := by
  have hself : t = s.withHostSide t := by
    have hcomm := seqStep_withHostSide s s
    rw [mapNext_eq_next h] at hcomm
    exact Host.Outcome.next.inj (h.symm.trans hcomm)
  have hcomm := seqStep_withHostSide { s with agenda := ag } s
  rw [mapNext_eq_next h] at hcomm
  rw [hself]
  exact hcomm

theorem AgendaRun.of_busyRun {n : Nat} {s t : State} (h : BusyRun n s t) (hag : s.agenda = []) :
    AgendaRun (List.replicate n .seqTurn) s t := by
  induction h with
  | refl s => exact .nil s
  | head _ first _ ih =>
    have hag' := step_agenda first
    rw [hag] at hag'
    rw [step_of_nil hag] at first
    exact .cons (seqStep_withAgenda first) (ih hag')

theorem AgendaRun.idleTurns {s : State} (hidle : s.eng.isBusy = false) (n : Nat) :
    AgendaRun (List.replicate n .seqTurn) s s := by
  induction n with
  | zero => exact .nil s
  | succ n ih => exact .cons (fun _ => seqStep_of_not_busy hidle) ih

/-- Turns for a whole run, or more: those that are left find the engine in `DONE`. -/
theorem AgendaRun.runTurns {s : State} {b0 : Byte} {turns : Nat} (hag : s.agenda = []) (hst : s.eng.stage = 1#5)
    (hfit : s.inputsFit) (hb0 : (mainDigest s.eng.password s.eng.saltBytes).toList.getD 0 0#8 = b0)
    (hok : s.okFor (runDigOps s.eng.pwLen b0)) (hturns : runSteps s.eng.pwLen b0 ≤ turns) :
    AgendaRun (List.replicate turns .seqTurn) s (s.after (runDigOps s.eng.pwLen b0) s.eng.afterRun) := by
  obtain ⟨rest, rfl⟩ := Nat.exists_eq_add_of_le hturns
  rw [← List.replicate_append_replicate]
  exact (AgendaRun.of_busyRun (busyRun_run hag hst hfit hb0 hok) hag).append (.idleTurns rfl rest)

end Sys2Proof

/-! ## The canonical command sequence (46_host_commands.md R190) -/

namespace Sys2Proof

open Machine

/-! ### The inputs (30_encoding.md R99) -/

theorem Machine.Engine.withPw_nil (e : Engine) : e.withPw [] = e := rfl

theorem Machine.Engine.withPw_cons (e : Engine) (b : Byte) (v : List Byte) :
    (e.withPw [b]).withPw v = e.withPw (b :: v) := by
  have hlen : e.pwLen + [b].length + v.length = e.pwLen + (b :: v).length := by
    simp only [List.length_cons, List.length_nil]
    omega
  calc (e.withPw [b]).withPw v
    _ = { e with pw := e.pw.writeRange e.pwLen (b :: v), pwLen := e.pwLen + [b].length + v.length } := rfl
    _ = e.withPw (b :: v) := by rw [hlen, Engine.withPw]

theorem Machine.Engine.withSalt_nil (e : Engine) : e.withSalt [] = e := by
  rw [Engine.withSalt, List.length_nil, BitVec.add_zero]
  rfl

section
variable {e : Engine}

theorem Machine.Engine.withSalt_saltLen {v : List Byte} (h : e.saltLen.toNat + v.length ≤ 16) :
    (e.withSalt v).saltLen.toNat = e.saltLen.toNat + v.length := by
  rw [Engine.withSalt, BitVec.toNat_add, BitVec.toNat_ofNat]
  omega

theorem Machine.Engine.withSalt_cons {b : Byte} (v : List Byte) (h : e.saltLen.toNat + 1 ≤ 16) :
    (e.withSalt [b]).withSalt v = e.withSalt (b :: v) := by
  have hlen : e.saltLen + BitVec.ofNat 5 [b].length + BitVec.ofNat 5 v.length =
      e.saltLen + BitVec.ofNat 5 (b :: v).length := by
    rw [BitVec.add_assoc, ← BitVec.ofNat_add, Nat.add_comm [b].length]
    rfl
  calc (e.withSalt [b]).withSalt v
    _ = { e with
          salt := (e.salt.writeRange e.saltLen.toNat [b]).writeRange (e.withSalt [b]).saltLen.toNat v
          saltLen := e.saltLen + BitVec.ofNat 5 [b].length + BitVec.ofNat 5 v.length } := rfl
    _ = e.withSalt (b :: v) := by
      rw [hlen, Engine.withSalt_saltLen h]
      rfl

end

section
variable {s : State}

theorem agendaRun_loadPw {v : List Byte} (hidle : s.eng.stage = 0#5) (hroom : s.eng.pwLen + v.length ≤ s.cfg.pwMax) :
    AgendaRun (loadPw v) s (s.repliedAll (s.eng.withPw v) (List.replicate v.length 0x8000#16)) := by
  induction v generalizing s with
  | nil =>
    rw [Engine.withPw_nil]
    exact .nil_replied s
  | cons b v ih =>
    rw [List.length_cons] at hroom
    have hlen : s.eng.pwLen < s.cfg.pwMax := by omega
    have hpush : AgendaRun [.hostCmd (cmdWord 2#4 b)] s (s.repliedAll (s.eng.withPw [b]) [0x8000#16]) :=
      .command (i := .pushp b) rfl fun _ => exec_pushp b hidle hlen
    refine hpush.command_then ?_
    rw [← Engine.withPw_cons s.eng b v]
    have hrest : s.eng.pwLen + 1 + v.length ≤ s.cfg.pwMax := by omega
    exact ih hidle hrest

theorem agendaRun_storeSalt {v : List Byte} (hidle : s.eng.stage = 0#5) (hroom : s.eng.saltLen.toNat + v.length ≤ 16) :
    AgendaRun (loadSalt v) s (s.repliedAll (s.eng.withSalt v) (List.replicate v.length 0x8000#16)) := by
  induction v generalizing s with
  | nil =>
    rw [Engine.withSalt_nil]
    exact .nil_replied s
  | cons b v ih =>
    rw [List.length_cons] at hroom
    have hlen : s.eng.saltLen.toNat < 16 := by omega
    have hpush : AgendaRun [.hostCmd (cmdWord 3#4 b)] s (s.repliedAll (s.eng.withSalt [b]) [0x8000#16]) :=
      .command (i := .pushs b) rfl fun _ => exec_pushs b hidle hlen
    refine hpush.command_then ?_
    rw [← Engine.withSalt_cons v (by omega)]
    refine ih hidle ?_
    rw [State.repliedAll, Engine.withSalt_saltLen (by rw [List.length_singleton]; omega), List.length_singleton]
    omega

theorem agendaRun_dropSalt {v : List Byte} (hidle : s.eng.stage = 0#5) (hfull : 16 ≤ s.eng.saltLen.toNat) :
    AgendaRun (loadSalt v) s (s.repliedAll s.eng (List.replicate v.length 0x8000#16)) := by
  induction v generalizing s with
  | nil => exact .nil_replied s
  | cons b v ih =>
    have hpush : AgendaRun [.hostCmd (cmdWord 3#4 b)] s (s.repliedAll s.eng [0x8000#16]) :=
      .command (i := .pushs b) rfl fun _ => exec_pushs_dropped b hidle hfull
    exact hpush.command_then (ih hidle hfull)

/-- The first 16 bytes of the salt are held, the later ones are dropped (R184). -/
theorem agendaRun_loadSalt (salt : List Byte) (hidle : s.eng.stage = 0#5) (hempty : s.eng.saltLen = 0#5) :
    AgendaRun (loadSalt salt) s
      (s.repliedAll (s.eng.withSalt (salt.take 16)) (List.replicate salt.length 0x8000#16)) := by
  have hroom : s.eng.saltLen.toNat + (salt.take 16).length ≤ 16 := by
    rw [hempty, BitVec.toNat_ofNat, List.length_take]
    omega
  have hstore := agendaRun_storeSalt hidle hroom
  rcases Nat.lt_or_ge salt.length 16 with hshort | hlong
  · rwa [List.take_of_length_le hshort.le] at hstore ⊢
  · have hfull : 16 ≤ (s.eng.withSalt (salt.take 16)).saltLen.toNat := by
      rw [Engine.withSalt_saltLen hroom, List.length_take]
      omega
    have hdrop := hstore.append_replied (agendaRun_dropSalt (v := salt.drop 16) hidle hfull)
    rw [List.replicate_append_replicate, ← List.length_append, List.take_append_drop,
      loadSalt, loadSalt, ← List.map_append, List.take_append_drop] at hdrop
    exact hdrop

/-! ### The sequence up to `START` -/

/-- The engine that begins a run with a password and a salt. -/
def Machine.Engine.loaded (pw salt : List Byte) : Engine :=
  { (Engine.reset.withPw pw).withSalt (salt.take 16) with stage := 1#5 }

/-- The state that it stands in, every command acknowledged: the inputs, `CLR` and `START`. -/
def Machine.State.loaded (s : State) (pw salt : List Byte) : State :=
  s.repliedAll (Engine.loaded pw salt) (List.replicate (pw.length + salt.length + 2) 0x8000#16)

theorem agendaRun_clr (h : s.eng.stage ∈ [0#5, 29#5, 30#5]) :
    AgendaRun [clrEvent] s (s.repliedAll Engine.reset [0x8000#16]) :=
  .command (i := .clr) rfl fun _ => exec_clr h

theorem agendaRun_start (h : s.eng.stage = 0#5) :
    AgendaRun [startEvent] s (s.repliedAll { s.eng with stage := 1#5 } [0x8000#16]) :=
  .command (i := .start) rfl fun _ => exec_start h

theorem agendaRun_startSequence {pw : List Byte} (salt : List Byte) (h : s.eng.stage ∈ [0#5, 29#5, 30#5])
    (hlen : pw.length ≤ s.cfg.pwMax) :
    AgendaRun (startSequence pw salt) s (s.loaded pw salt) := by
  have hroom : Engine.reset.pwLen + pw.length ≤ s.cfg.pwMax := (Nat.zero_add pw.length).trans_le hlen
  have hpw := (agendaRun_clr h).append_replied (agendaRun_loadPw rfl hroom)
  have hstart := (hpw.append_replied (agendaRun_loadSalt salt rfl rfl)).append_replied (agendaRun_start rfl)
  have hresp : [0x8000#16] ++ List.replicate pw.length 0x8000#16 ++ List.replicate salt.length 0x8000#16 ++ [0x8000#16] =
      List.replicate (pw.length + salt.length + 2) 0x8000#16 := by
    rw [← List.replicate_one, List.replicate_append_replicate, List.replicate_append_replicate,
      List.replicate_append_replicate]
    congr 1
    omega
  rw [hresp] at hstart
  exact hstart

end

section
variable (pw salt : List Byte)

theorem Machine.Engine.loaded_pwLen : (Engine.loaded pw salt).pwLen = pw.length := Nat.zero_add _

theorem Machine.Engine.loaded_saltLen : (Engine.loaded pw salt).saltLen.toNat = (salt.take 16).length := by
  have hlen := Engine.withSalt_saltLen (e := Engine.reset.withPw pw) (v := salt.take 16)
    (by rw [List.length_take]; exact (Nat.zero_add _).trans_le (Nat.min_le_left _ _))
  exact hlen.trans (Nat.zero_add _)

theorem Machine.Engine.loaded_password : (Engine.loaded pw salt).password = pw := by
  rw [Engine.password, Engine.loaded_pwLen]
  exact Memory.read_back Memory.wf_nil pw

theorem Machine.Engine.loaded_saltBytes : (Engine.loaded pw salt).saltBytes = salt.take 16 := by
  rw [Engine.saltBytes, Engine.loaded_saltLen]
  exact Memory.read_back Memory.wf_nil _

/-- The salt that the engine holds stands for the whole one (00_scope.md R2). -/
theorem Machine.crypt6_take : crypt6 pw (salt.take 16) = crypt6 pw salt := by
  rw [crypt6, crypt6, truncSalt, truncSalt, List.take_take, Nat.min_self]

/-- The output of the run that the loaded engine begins. -/
theorem Machine.Engine.loaded_afterRun_outBytes : (Engine.loaded pw salt).afterRun.outBytes = crypt6 pw salt := by
  have hsalt : (Engine.loaded pw salt).saltLen.toNat ≤ 16 := by
    rw [Engine.loaded_saltLen]
    exact List.length_take_le 16 salt
  have hout := Engine.afterRun_outBytes (e := Engine.loaded pw salt) Memory.wf_nil Memory.wf_nil Memory.wf_nil hsalt
  rwa [Engine.loaded_password, Engine.loaded_saltBytes, crypt6_take] at hout

theorem Machine.Engine.loaded_afterRun_outLen :
    (Engine.loaded pw salt).afterRun.outLen = BitVec.ofNat 7 (90 + min salt.length 16) := by
  have hlen : (Engine.loaded pw salt).afterRun.outLen = BitVec.ofNat 7 (90 + (Engine.loaded pw salt).saltLen.toNat) := rfl
  rw [hlen, Engine.loaded_saltLen, List.length_take, Nat.min_comm]

end

/-! ### The poll and the read-out -/

section
variable {s : State}

theorem Machine.Engine.status_of_output {e : Engine} (hst : e.stage = 29#5) (hcmd : e.cmdErr = false)
    (hav : e.outPtr.toNat < e.outLen.toNat) : e.status = 0x12#8 := by
  have hout : e.outAv = true := e.outAv_iff.2 ⟨hst, hav⟩
  rw [Engine.status, hout, hcmd, Engine.isFault, Engine.isDone, Engine.isBusy, hst]
  rfl

/-- `STAT` and `RDREG OUTLEN` (R187). -/
theorem agendaRun_poll :
    AgendaRun [statEvent, outLenEvent] s
      (s.repliedAll s.eng [okWord s.eng.status, okWord (s.eng.outLen.setWidth 8)]) :=
  (AgendaRun.command (i := .rdreg 0x00#8) rfl fun _ => exec_rdreg rfl).command_then
    (.command (i := .rdreg 0x05#8) rfl fun _ => exec_rdreg rfl)

/-- `POPC` after `POPC` gives the bytes of `OUT` from `OUTPTR` on (R186). -/
theorem agendaRun_popc {n : Nat} (hst : s.eng.stage = 29#5) (hlen : s.eng.outLen.toNat ≤ 106)
    (hn : s.eng.outPtr.toNat + n ≤ s.eng.outLen.toNat) :
    ∃ e, AgendaRun (List.replicate n popcEvent) s
      (s.repliedAll e ((s.eng.bytes .out s.eng.outPtr.toNat n).map okWord)) := by
  induction n generalizing s with
  | zero => exact ⟨s.eng, .nil_replied s⟩
  | succ n ih =>
    have hlt : s.eng.outPtr.toNat < s.eng.outLen.toNat := by omega
    have hpop : AgendaRun [popcEvent] s (s.repliedAll { s.eng with outPtr := s.eng.outPtr + 1#7 }
        [okWord (s.eng.out.read s.eng.outPtr.toNat)]) :=
      .command (i := .popc) rfl fun _ => exec_popc hst hlt hlen
    have hnext : (s.eng.outPtr + 1#7).toNat = s.eng.outPtr.toNat + 1 := by
      rw [BitVec.toNat_add, BitVec.toNat_ofNat]
      omega
    obtain ⟨e, hrest⟩ := ih (s := s.repliedAll { s.eng with outPtr := s.eng.outPtr + 1#7 }
      [okWord (s.eng.out.read s.eng.outPtr.toNat)]) hst hlen (by simp only [State.repliedAll, hnext]; omega)
    have hbytes : s.eng.bytes .out s.eng.outPtr.toNat (n + 1) =
        s.eng.out.read s.eng.outPtr.toNat :: s.eng.bytes .out (s.eng.outPtr + 1#7).toNat n := by
      rw [Engine.bytes, List.range_succ_eq_map, hnext, List.map_cons, List.map_map]
      simp [Engine.bytes, Engine.byteAt, Nat.add_assoc, Nat.add_comm 1, Function.comp_def]
    rw [hbytes]
    exact ⟨e, hpop.command_then hrest⟩

end

/-! ### A password that fits -/

/-- From `DONE` on: the poll shows `DONE` and `OUTAV`, and the read-out gives the whole output (R190). -/
theorem agendaRun_readOut {s : State} {n : Nat} (hst : s.eng.stage = 29#5) (hcmd : s.eng.cmdErr = false)
    (hptr : s.eng.outPtr = 0#7) (hlen : s.eng.outLen = BitVec.ofNat 7 n) (hpos : 0 < n) (hn : n ≤ 106) :
    ∃ e, AgendaRun ([statEvent, outLenEvent] ++ List.replicate n popcEvent) s
      (s.repliedAll e ([0x8012#16, okWord (BitVec.ofNat 8 n)] ++ s.eng.outBytes.map okWord)) := by
  have hlenNat : s.eng.outLen.toNat = n := by
    rw [hlen, BitVec.toNat_ofNat]
    omega
  have hptrNat : s.eng.outPtr.toNat = 0 := congrArg BitVec.toNat hptr
  have hstatus : s.eng.status = 0x12#8 := Engine.status_of_output hst hcmd (by omega)
  have hshown : s.eng.outLen.setWidth 8 = BitVec.ofNat 8 n := by
    rw [← hlenNat, BitVec.ofNat_toNat]
  have hpoll := agendaRun_poll (s := s)
  rw [hstatus, hshown] at hpoll
  obtain ⟨e, hpop⟩ := agendaRun_popc (s := s.repliedAll s.eng [okWord 0x12#8, okWord (BitVec.ofNat 8 n)]) (n := n) hst
    (hlenNat.trans_le hn) (by simp only [State.repliedAll]; omega)
  refine ⟨e, ?_⟩
  rw [Engine.outBytes, hlenNat, ← hptrNat]
  exact hpoll.append_replied hpop

section
variable {s : State} {pw : List Byte} (salt : List Byte) {turns : Nat} (hag : s.agenda = [])
  (hlen : pw.length ≤ s.cfg.pwMax) {b0 : Byte} (hb0 : (mainDigest pw (salt.take 16)).toList.getD 0 0#8 = b0)
  (hok : s.okFor (runDigOps pw.length b0)) (hturns : runSteps pw.length b0 ≤ turns)
include hag hlen hb0 hok hturns

theorem agendaRun_loadedTurns :
    AgendaRun (List.replicate turns .seqTurn) (s.loaded pw salt)
      ((s.loaded pw salt).after (runDigOps pw.length b0) (Engine.loaded pw salt).afterRun) := by
  have hfit : (s.loaded pw salt).inputsFit :=
    ⟨(Engine.loaded_pwLen pw salt).trans_le hlen, (Engine.loaded_saltLen pw salt).trans_le (List.length_take_le 16 salt)⟩
  have hrun := AgendaRun.runTurns (s := s.loaded pw salt) (b0 := b0) (turns := turns) hag rfl hfit
  simp only [State.loaded, State.repliedAll, Engine.loaded_password, Engine.loaded_saltBytes,
    Engine.loaded_pwLen] at hrun
  exact hrun hb0 hok hturns

/-- The whole sequence: every command is acknowledged, and the bytes collected are `Crypt6(pw, salt)`. -/
theorem agendaRun_hashSequence (hacc : s.eng.stage ∈ [0#5, 29#5, 30#5]) :
    ∃ t, AgendaRun (hashSequence pw salt turns (90 + min salt.length 16)) s t ∧
      t.responses = s.responses ++ List.replicate (pw.length + salt.length + 2) 0x8000#16
        ++ [0x8012#16, okWord (BitVec.ofNat 8 (90 + min salt.length 16))] ++ (crypt6 pw salt).map okWord := by
  have hrun := (agendaRun_startSequence salt hacc hlen).append (agendaRun_loadedTurns salt hag hlen hb0 hok hturns)
  obtain ⟨e, hread⟩ := agendaRun_readOut
    (s := (s.loaded pw salt).after (runDigOps pw.length b0) (Engine.loaded pw salt).afterRun) rfl rfl rfl
    (Engine.loaded_afterRun_outLen pw salt) (by omega) (by omega)
  have hall := hrun.append hread
  rw [← List.append_assoc] at hall
  refine ⟨_, hall, ?_⟩
  rw [State.repliedAll, State.after_eng, Engine.loaded_afterRun_outBytes, ← List.append_assoc]
  rfl

end

/-! ### A password that is too long -/

/-- The engine after the push of a byte too many, with the code of the last rejection (60_exceptions.md R223, R227). -/
def Machine.Engine.overflowed (rej : BitVec 3) : Engine :=
  { Engine.reset with stage := 30#5, errCode := 1#2, cmdErr := true, rejCode := rej }

theorem Machine.Engine.overflowed_status (rej : BitVec 3) : (Engine.overflowed rej).status = 0x0C#8 := by
  revert rej
  decide

theorem Machine.Engine.overflowed_outLen (rej : BitVec 3) : (Engine.overflowed rej).outLen = 0#7 := rfl

theorem agendaRun_overflowingPush {s : State} (b : Byte) (hidle : s.eng.stage = 0#5)
    (hfull : s.eng.pwLen = s.cfg.pwMax) :
    AgendaRun [.hostCmd (cmdWord 2#4 b)] s (s.repliedAll (Engine.overflowed 7#3) [0x7000#16]) :=
  .command (i := .pushp b) rfl fun _ => exec_pushp_full b hidle hfull

/-- The event is a command that the engine rejects `WRONG_STATE` from then on. -/
def RejectedInFault (ev : Event) : Prop :=
  ∀ (s : State) (c : BitVec 3), s.eng = Engine.overflowed c →
    AgendaRun [ev] s (s.repliedAll (Engine.overflowed 3#3) [0x3000#16])

theorem rejectedInFault_of_exec {i : Instr} {w : Word16} (henc : encode i = .cmd16 w)
    (hx : ∀ s : State, s.eng.stage ≠ 0#5 → exec i s = .next (s.rejected 3#3)) : RejectedInFault (.hostCmd w) := by
  intro s c hs
  have hst : s.eng.stage ≠ 0#5 := by
    rw [hs]
    exact (by decide : 30#5 ≠ 0#5)
  have hnoted : { s.eng with cmdErr := true, rejCode := 3#3 } = Engine.overflowed 3#3 := by
    rw [hs]
    rfl
  rw [← hnoted]
  exact .command henc fun ag => hx { s with agenda := ag } hst

theorem rejectedInFault_inputs {pw salt : List Byte} {ev : Event}
    (h : ev ∈ loadPw pw ++ loadSalt salt ++ [startEvent]) : RejectedInFault ev := by
  rw [List.mem_append, List.mem_append, loadPw, loadSalt, List.mem_map, List.mem_map, List.mem_singleton] at h
  obtain (⟨b, -, rfl⟩ | ⟨b, -, rfl⟩) | rfl := h
  · exact rejectedInFault_of_exec (i := .pushp b) rfl fun _ => exec_pushp_wrongState b
  · exact rejectedInFault_of_exec (i := .pushs b) rfl fun _ => exec_pushs_wrongState b
  · exact rejectedInFault_of_exec (i := .start) rfl fun _ => exec_start_wrongState

theorem agendaRun_rejectedInFault {s : State} {c : BitVec 3} {evs : List Event} (hevs : ∀ ev ∈ evs, RejectedInFault ev)
    (hs : s.eng = Engine.overflowed c) :
    ∃ c', AgendaRun evs s (s.repliedAll (Engine.overflowed c') (List.replicate evs.length 0x3000#16)) := by
  induction evs generalizing s c with
  | nil => exact ⟨c, hs ▸ .nil_replied s⟩
  | cons ev evs ih =>
    obtain ⟨c', hrest⟩ := ih (s := s.repliedAll (Engine.overflowed 3#3) [0x3000#16])
      (fun ev' h => hevs ev' (.tail ev h)) rfl
    exact ⟨c', (hevs ev (.head evs) s c hs).command_then hrest⟩

/-- The push that finds `PW` full is fatal, and every later command up to `START` is rejected (R183, R190). -/
theorem agendaRun_overflow {s : State} {pw : List Byte} (salt : List Byte) (hacc : s.eng.stage ∈ [0#5, 29#5, 30#5])
    (hlong : s.cfg.pwMax < pw.length) :
    ∃ c, AgendaRun (startSequence pw salt) s
      (s.repliedAll (Engine.overflowed c) (List.replicate (1 + s.cfg.pwMax) 0x8000#16 ++ [0x7000#16] ++
        List.replicate (pw.length - s.cfg.pwMax - 1 + salt.length + 1) 0x3000#16)) := by
  obtain ⟨v, b, rest, rfl, hv⟩ : ∃ v b rest, pw = v ++ b :: rest ∧ v.length = s.cfg.pwMax :=
    ⟨pw.take s.cfg.pwMax, pw[s.cfg.pwMax], pw.drop (s.cfg.pwMax + 1),
      by rw [← List.drop_eq_getElem_cons, List.take_append_drop], List.length_take_of_le hlong.le⟩
  have hfull : (Engine.reset.withPw v).pwLen = s.cfg.pwMax := (Nat.zero_add v.length).trans hv
  have hfill := (agendaRun_clr hacc).append_replied (agendaRun_loadPw (v := v) rfl hfull.le)
  have hover := hfill.append_replied (agendaRun_overflowingPush b rfl hfull)
  obtain ⟨c, hrej⟩ := agendaRun_rejectedInFault (evs := loadPw rest ++ loadSalt salt ++ [startEvent])
    (s := s.repliedAll (Engine.overflowed 7#3) ([0x8000#16] ++ List.replicate v.length 0x8000#16 ++ [0x7000#16]))
    (fun _ => rejectedInFault_inputs) rfl
  have hall := hover.append_replied hrej
  have hevents : startSequence (v ++ b :: rest) salt =
      [clrEvent] ++ loadPw v ++ [.hostCmd (cmdWord 2#4 b)] ++ (loadPw rest ++ loadSalt salt ++ [startEvent]) := by
    simp [startSequence, loadPw]
  have hlater : (v ++ b :: rest).length - s.cfg.pwMax - 1 + salt.length + 1 =
      (loadPw rest ++ loadSalt salt ++ [startEvent]).length := by
    simp only [List.length_append, List.length_cons, List.length_nil, loadPw, loadSalt, List.length_map]
    omega
  rw [hevents, hlater, ← hv, ← List.replicate_append_replicate]
  exact ⟨c, hall⟩

/-- Settles O60: a password that fits runs to `DONE` and is read out; one that is too long ends in `FAULT`. -/
theorem canonicalSequence : Obligations.CanonicalSequence := by
  intro s pw salt turns _ hacc b0 n agenda
  refine ⟨fun hlen hturns hok => ?_, fun hlong => ?_⟩
  · obtain ⟨t, hrun, hresp⟩ := agendaRun_hashSequence (s := { s with agenda := [] }) salt rfl hlen rfl hok hturns hacc
    exact ⟨_, hrun.run_eq, hresp⟩
  · obtain ⟨c, hstart⟩ := agendaRun_overflow salt hacc hlong
    have hrun := (hstart.append (.idleTurns rfl turns)).append_replied agendaRun_poll
    refine ⟨_, hrun.run_eq, rfl, ?_⟩
    simp only [State.repliedAll, Engine.overflowed_status, Engine.overflowed_outLen, ← List.append_assoc]
    rfl

end Sys2Proof

/-! ## SHA-512: padding, blocks and the streaming form (47_sha512_function.md R204 to R213) -/

namespace Sys2Proof

open Machine

namespace Machine

/-! ### A byte sequence in pieces (R205) -/

section
variable {size n : Nat} {bs : List Byte}

theorem pieces_length : (pieces size n bs).length = n := by
  induction n generalizing bs with
  | zero => rfl
  | succ n ih => rw [pieces, List.length_cons, ih]

theorem pieces_flatten : (pieces size n bs).flatten = bs.take (size * n) := by
  induction n generalizing bs with
  | zero => rfl
  | succ n ih => rw [pieces, List.flatten_cons, ih, ← List.take_add, Nat.mul_succ, Nat.add_comm]

theorem length_of_mem_pieces (hn : size * n ≤ bs.length) {piece : List Byte} (h : piece ∈ pieces size n bs) :
    piece.length = size := by
  induction n generalizing bs with
  | zero => nomatch h
  | succ n ih =>
    rw [Nat.mul_succ] at hn
    rcases List.mem_cons.1 h with rfl | h
    · exact List.length_take_of_le (by omega)
    · exact ih (by rw [List.length_drop]; omega) h

/-- Pieces that lie in the first part of a byte sequence, then those of what is behind them. -/
theorem pieces_append (h : bs.length = size * n) (m : Nat) (cs : List Byte) :
    pieces size (n + m) (bs ++ cs) = pieces size n bs ++ pieces size m cs := by
  induction n generalizing bs with
  | zero => rw [List.length_eq_zero_iff.1 h, List.nil_append, Nat.zero_add]; rfl
  | succ n ih =>
    rw [Nat.mul_succ] at h
    have hsize : size ≤ bs.length := by omega
    rw [Nat.succ_add, pieces, pieces, List.take_append_of_le_length hsize, List.drop_append_of_le_length hsize,
      ih (by rw [List.length_drop]; omega), List.cons_append]

end

theorem blocks_eq_nil {bs : List Byte} (h : bs.length < 128) : blocks bs = [] := by
  rw [blocks, Nat.div_eq_of_lt h, pieces]

theorem blocks_append {bs : List Byte} (h : bs.length % 128 = 0) (cs : List Byte) :
    blocks (bs ++ cs) = blocks bs ++ blocks cs := by
  have hwhole : bs.length = 128 * (bs.length / 128) := by omega
  have hcount : (bs ++ cs).length / 128 = bs.length / 128 + cs.length / 128 := by
    rw [List.length_append]
    omega
  rw [blocks, hcount, pieces_append hwhole, blocks, blocks]

/-! ### The whole blocks of a message, and its end -/

/-- The whole blocks of a message. -/
def wholeBlocks (m : List Byte) : List Byte := m.take (128 * (m.length / 128))

/-- What follows the whole blocks of a message. -/
def blockRest (m : List Byte) : List Byte := m.drop (128 * (m.length / 128))

section
variable (m : List Byte)

theorem wholeBlocks_append_blockRest : wholeBlocks m ++ blockRest m = m := List.take_append_drop _ m

theorem wholeBlocks_length : (wholeBlocks m).length = 128 * (m.length / 128) :=
  List.length_take_of_le (Nat.mul_div_le _ _)

theorem blockRest_length : (blockRest m).length = m.length % 128 := by
  rw [blockRest, List.length_drop]
  omega

theorem blockRest_append {bs : List Byte} (h : bs.length % 128 = 0) : blockRest (bs ++ m) = blockRest m := by
  have hcut : 128 * ((bs ++ m).length / 128) = bs.length + 128 * (m.length / 128) := by
    rw [List.length_append]
    omega
  rw [blockRest, hcut, List.drop_length_add_append, blockRest]

theorem blocks_wholeBlocks : blocks (wholeBlocks m) = blocks m := by
  have hrest : blocks (blockRest m) = [] := blocks_eq_nil (by rw [blockRest_length]; omega)
  conv => rhs; rw [← wholeBlocks_append_blockRest m,
    blocks_append (by rw [wholeBlocks_length, Nat.mul_mod_right]), hrest, List.append_nil]

/-- The whole blocks of a message can be compressed before the bytes behind the message are there (R208). -/
theorem chainFrom_append (hv : Chain) (x : List Byte) :
    chainFrom hv (m ++ x) = chainFrom (chainFrom hv m) (blockRest m ++ x) := by
  have hsplit : m ++ x = wholeBlocks m ++ (blockRest m ++ x) := by
    rw [← List.append_assoc, wholeBlocks_append_blockRest]
  rw [hsplit, chainFrom, blocks_append (by rw [wholeBlocks_length, Nat.mul_mod_right]), List.foldl_append,
    blocks_wholeBlocks, chainFrom, chainFrom]

end

/-! ### Numbers as bytes, most significant byte first -/

theorem bytesBE_succ (v n : Nat) : bytesBE v (n + 1) = bytesBE (v / 2 ^ 8) n ++ [BitVec.ofNat 8 v] := by
  have hshift : ∀ j ∈ List.range n, BitVec.ofNat 8 (v >>> (8 * (n + 1 - 1 - j))) =
      BitVec.ofNat 8 ((v / 2 ^ 8) >>> (8 * (n - 1 - j))) := by
    intro j hj
    have hj := List.mem_range.1 hj
    rw [← Nat.shiftRight_eq_div_pow, ← Nat.shiftRight_add, show 8 * (n + 1 - 1 - j) = 8 + 8 * (n - 1 - j) by omega]
  rw [bytesBE, List.range_succ, List.map_append, List.map_congr_left hshift, bytesBE]
  simp

@[simp] theorem bytesBE_length (v n : Nat) : (bytesBE v n).length = n := by simp [bytesBE]

/-- The bytes hold the number modulo their range. -/
theorem bytesBE_congr {v w n : Nat} (h : v % 2 ^ (8 * n) = w % 2 ^ (8 * n)) : bytesBE v n = bytesBE w n := by
  induction n generalizing v w with
  | zero => rfl
  | succ n ih =>
    rw [Nat.mul_succ, Nat.add_comm, pow_add, Nat.mod_mul, Nat.mod_mul] at h
    have hhigh : v / 2 ^ 8 % 2 ^ (8 * n) = w / 2 ^ 8 % 2 ^ (8 * n) := by omega
    have hlow : BitVec.ofNat 8 v = BitVec.ofNat 8 w := BitVec.eq_of_toNat_eq (by simp only [BitVec.toNat_ofNat]; omega)
    rw [bytesBE_succ, bytesBE_succ, ih hhigh, hlow]

/-- The number that the bytes spell. -/
theorem foldl_bytesBE {v n : Nat} (h : v < 2 ^ (8 * n)) :
    (bytesBE v n).foldl (fun v b => v * 256 + b.toNat) 0 = v := by
  induction n generalizing v with
  | zero => exact (Nat.lt_one_iff.1 h).symm
  | succ n ih =>
    have hhigh : v / 2 ^ 8 < 2 ^ (8 * n) := Nat.div_lt_of_lt_mul (by rwa [← pow_add, Nat.add_comm])
    rw [bytesBE_succ, List.foldl_append, ih hhigh, List.foldl_cons, List.foldl_nil, BitVec.toNat_ofNat]
    omega

/-! ### Padding (R204) -/

theorem padZeros_mod (n : Nat) : (n + 1 + padZeros n) % 128 = 112 := by
  rw [padZeros]
  omega

theorem padZeros_least {n j : Nat} (hj : j < padZeros n) : (n + 1 + j) % 128 ≠ 112 := by
  rw [padZeros] at hj
  omega

theorem padding_length (n : Nat) : (padding n).length = 17 + padZeros n := by
  simp only [padding, List.length_cons, List.length_append, List.length_replicate, bytesBE_length]
  omega

/-- A message pads to the number of blocks of R212. -/
theorem pad_length (m : List Byte) : (pad m).length = 128 * blockCount m.length := by
  rw [pad, List.length_append, padding_length, padZeros, blockCount]
  omega

/-- The field of the length is 16 bytes, so the padding is that of the length modulo 2^128. -/
theorem padding_mod (n : Nat) : padding (n % 2 ^ 128) = padding n := by
  have hzeros : padZeros (n % 2 ^ 128) = padZeros n := by
    rw [padZeros, padZeros]
    omega
  have hfield : bytesBE (8 * (n % 2 ^ 128)) 16 = bytesBE (8 * n) 16 := bytesBE_congr (by omega)
  rw [padding, hzeros, hfield, padding]

/-! ### The streaming context (R213) -/

/-- The context that stands for the bytes fed so far: the abstraction relation of R213 as a function. -/
def streamOf (m : List Byte) : Stream where
  chain := chainFrom initialChain m
  buf := blockRest m
  total := BitVec.ofNat 128 m.length

theorem streamFeed_streamOf (m x : List Byte) : streamFeed (streamOf m) x = streamOf (m ++ x) := by
  have hbuf : blockRest (blockRest m ++ x) = blockRest (m ++ x) := by
    conv => rhs; rw [← wholeBlocks_append_blockRest m, List.append_assoc,
      blockRest_append _ (by rw [wholeBlocks_length, Nat.mul_mod_right])]
  rw [streamOf, streamOf, chainFrom_append, ← hbuf, List.length_append, BitVec.ofNat_add]
  rfl

theorem foldl_streamFeed (m : List Byte) (feeds : List (List Byte)) :
    feeds.foldl streamFeed (streamOf m) = streamOf (m ++ feeds.flatten) := by
  induction feeds generalizing m with
  | nil => rw [List.foldl_nil, List.flatten_nil, List.append_nil]
  | cons x feeds ih => rw [List.foldl_cons, streamFeed_streamOf, ih, List.flatten_cons, List.append_assoc]

theorem streamFinal_streamOf (m : List Byte) : streamFinal (streamOf m) = sha512 m := by
  rw [streamFinal, streamOf, BitVec.toNat_ofNat, padding_mod, ← chainFrom_append, sha512, pad]

end Machine

/-- Settles O50, by induction on the feeds: the context is `streamOf` of the bytes fed so far. -/
theorem streamingAgrees : Obligations.StreamingAgrees := by
  intro feeds c m
  have hc : c = streamOf m := foldl_streamFeed [] feeds
  rw [hc]
  refine ⟨streamFinal_streamOf m, rfl, ?_, rfl, ?_⟩
  · exact (blockRest_length m).trans_lt (Nat.mod_lt _ (by decide))
  · exact congrArg (List.foldl compress initialChain) (blocks_wholeBlocks m).symm

/-- Settles O49: the padding by its three parts, and the pieces of a whole number of blocks. -/
theorem paddingRule : Obligations.PaddingRule := by
  intro m
  have hlen := pad_length m
  have hcount : (pad m).length / 128 = blockCount m.length := by omega
  refine ⟨by omega, pieces_length.trans hcount, fun b hb => length_of_mem_pieces (Nat.mul_div_le _ _) hb, ?_,
    padZeros m.length, bytesBE (8 * m.length) 16, ?_, padZeros_mod _, fun _ => padZeros_least, bytesBE_length _ _,
    fun hm => foldl_bytesBE (by omega)⟩
  · rw [blocks, pieces_flatten, hcount, ← hlen, List.take_length]
  · simp [pad, padding]

end Sys2Proof

/-! ## How a command is answered, and what is left of an earlier computation (60_exceptions.md, 70_reset_and_hazards.md) -/

namespace Sys2Proof

open Machine

/-! ### The answers of the host's commands (60_exceptions.md R223) -/

/-- How a command word is answered in a state, by what becomes of the error registers. -/
inductive HostAnswer (w : Word16) (s : State) : State → Prop where
  | rejected (c : RejCause) : HostAnswer w s (s.reject c)
  /-- The overflow of the password (46_host_commands.md R183). -/
  | overflowed : HostAnswer w s ((s.reject .faulted).raiseFault .pwOverflow)
  /-- An accepted `CLR`. -/
  | cleared (hw : w = 0x1000#16) : HostAnswer w s (s.clearEngine.respond (ackWord 0#8))
  | performed (e : Engine) (d : Byte) (hcmd : e.cmdErr = s.eng.cmdErr) (hrej : e.rejCode = s.eng.rejCode) :
      HostAnswer w s ((s.setEng e).respond (ackWord d))

/-- The outcome, if it is a next state, is an answer to the word. -/
def AnswersHost (w : Word16) (s : State) (o : Out) : Prop := ∀ t, o = .next t → HostAnswer w s t

section
variable {w : Word16} {s : State}

theorem HostAnswer.answers {t : State} (h : HostAnswer w s t) : AnswersHost w s (.next t) := by
  rintro _ ⟨⟩
  exact h

theorem AnswersHost.reject (c : RejCause) : AnswersHost w s (.next (s.reject c)) := (HostAnswer.rejected c).answers

/-- A performed command writes the engine, but for the error registers, and is acknowledged. -/
theorem AnswersHost.performed {u : State} {d : Byte} (hu : u = s.setEng u.eng) (hcmd : u.eng.cmdErr = s.eng.cmdErr)
    (hrej : u.eng.rejCode = s.eng.rejCode) : AnswersHost w s (.next (u.respond (ackWord d))) :=
  hu ▸ (HostAnswer.performed u.eng d hcmd hrej).answers

theorem AnswersHost.ite {c : Prop} [Decidable c] {a b : Out} (ha : AnswersHost w s a) (hb : AnswersHost w s b) :
    AnswersHost w s (if c then a else b) := by
  split
  · exact ha
  · exact hb

theorem AnswersHost.memRead {sp : Space} {off n : Nat} {k : List Byte → Out} (hk : ∀ x, AnswersHost w s (k x)) :
    AnswersHost w s (memRead sp off n s k) :=
  fun t h => hk _ t (memRead_next h).2

theorem AnswersHost.memWrite {sp : Space} {off : Nat} {v : List Byte} {k : State → Out}
    (hk : AnswersHost w s (k (s.setEng (s.eng.store sp off v)))) : AnswersHost w s (memWrite sp off v s k) :=
  fun t h => hk t (memWrite_next h).2

/-- Every command of the host answers in one of the four ways. -/
theorem answersHost_exec {i : Instr} (henc : encode i = .cmd16 w) : AnswersHost w s (exec i s) := by
  cases i with
  | nop => exact .performed rfl rfl rfl
  | clr => exact .ite (HostAnswer.cleared (by cases henc; rfl)).answers (.reject _)
  | pushp b =>
    exact .ite (.reject _) (.ite HostAnswer.overflowed.answers (.memWrite (.performed rfl rfl rfl)))
  | pushs b =>
    exact .ite (.reject _) (.ite (.memWrite (.performed rfl rfl rfl)) (.performed rfl rfl rfl))
  | start => exact .ite (.reject _) (.performed rfl rfl rfl)
  | popc => exact .ite (.reject _) (.ite (.reject _) (.memRead fun _ => .performed rfl rfl rfl))
  | rdreg sel =>
    change AnswersHost w s (execRdreg sel s)
    unfold execRdreg
    split
    next d _ => exact .performed rfl rfl rfl
    next => exact .reject _
  | illegalOp7 | illegalOp8to15 => exact .reject _
  | _ => nomatch henc

theorem hostAnswer_of_hostCmd {t : State} (h : hostCmd w s = .next t) : HostAnswer w s t := by
  unfold hostCmd at h
  split at h
  next i hd => exact answersHost_exec (encode_of_decodeCmd16 hd) t h
  next => exact AnswersHost.reject _ t h

end

/-- The response of a rejection (30_encoding.md R81): bit 15 clear, the cause, twelve zero bits. -/
theorem rejWord_fields (c : RejCause) : (rejWord c).getLsbD 15 = false ∧ (rejWord c).extractLsb' 12 3 = c.code ∧
    (rejWord c).extractLsb' 0 12 = 0#12 := by
  cases c <;> decide

theorem ackWord_bit15 (d : Byte) : (ackWord d).getLsbD 15 = true := by
  simp [ackWord]

/-- A sequencer step writes neither error register, a fault entry keeps both (60_exceptions.md R227). -/
theorem seqStep_errors {s t : State} (h : seqStep s = .next t) :
    t.eng.cmdErr = s.eng.cmdErr ∧ t.eng.rejCode = s.eng.rejCode := by
  rcases seqStep_next h with ⟨-, rfl⟩ | ⟨i, -, -, hfault | hop⟩
  · exact ⟨rfl, rfl⟩
  · rw [hfault]
    exact ⟨rfl, rfl⟩
  · obtain ⟨hcmd, hrej, -⟩ := s.eng.afterOp_errors (i := i)
    rw [hop]
    exact ⟨hcmd, hrej⟩

/-- Settles O15, by the four ways in which a command is answered. -/
theorem rejectionWritesOnlyErrors : Obligations.RejectionWritesOnlyErrors := by
  refine ⟨fun w s t r h hr => ?_, fun s t => seqStep_errors⟩
  cases hostAnswer_of_hostCmd h with
  | rejected c =>
    obtain rfl : rejWord c = r := List.singleton_inj.1 (List.append_cancel_left hr)
    obtain ⟨hbit, hcode, hzero⟩ := rejWord_fields c
    rw [hbit, hcode]
    exact ⟨fun _ => ⟨rfl, rfl, hzero, fun _ => s.reject_eq_rejected c⟩, nofun⟩
  | overflowed =>
    obtain rfl : rejWord .faulted = r := List.singleton_inj.1 (List.append_cancel_left hr)
    obtain ⟨hbit, hcode, hzero⟩ := rejWord_fields .faulted
    rw [hbit, hcode]
    exact ⟨fun _ => ⟨rfl, rfl, hzero, fun hne => absurd rejWord_faulted hne⟩, nofun⟩
  | cleared hw =>
    obtain rfl : ackWord 0#8 = r := List.singleton_inj.1 (List.append_cancel_left hr)
    rw [ackWord_bit15]
    exact ⟨nofun, fun _ hne => absurd hw hne⟩
  | performed e d hcmd hrej =>
    obtain rfl : ackWord d = r := List.singleton_inj.1 (List.append_cancel_left hr)
    rw [ackWord_bit15]
    exact ⟨nofun, fun _ _ => ⟨hcmd, hrej⟩⟩

/-! ### Into `IDLE`, in `IDLE`, and out of it (70_reset_and_hazards.md R253) -/

section
variable {s t : State}

/-- In `IDLE` `HardReset` and `CLR` leave the engine of R39. -/
theorem step_eng_reset_of_idle (h : step s = .next t) (hidle : s.eng.stage = 0#5)
    (hag : s.agenda.head? ∈ [some .hardReset, some (.hostCmd 0x1000#16)]) : t.eng = Engine.reset := by
  simp only [List.mem_cons, List.not_mem_nil, or_false] at hag
  rcases hag with hag | hag
  · obtain ⟨rest, hrest⟩ := List.head?_eq_some_iff.1 hag
    rw [step_of_cons hrest] at h
    cases h
    rfl
  · obtain ⟨rest, hrest⟩ := List.head?_eq_some_iff.1 hag
    have hclr := exec_clr (s := { s with agenda := rest }) (by rw [hidle]; decide)
    rw [step_of_cons hrest, runEvent, hostCmd_of_decode rfl, hclr] at h
    cases h
    rfl

/-- Another code is left for `IDLE` by `HardReset` or `CLR` only. -/
theorem step_into_idle (h : step s = .next t) (hidle : t.eng.stage = 0#5) (hne : s.eng.stage ≠ 0#5) :
    s.agenda.head? ∈ [some .hardReset, some (.hostCmd 0x1000#16)] ∧ t.eng = Engine.reset := by
  rcases (step_engine h).2 with h | ⟨-, i, hd, h | h⟩ | ⟨w, hag, heff⟩ | ⟨hag, h⟩
  · exact absurd (h ▸ hidle) hne
  · rw [h] at hidle
    cases hidle
  · have hnext := Engine.stageAfter_toNat hd
    have hbusy := (s.eng.isBusy_iff.1 (isBusy_of_decode hd)).1
    rw [← Engine.afterOp_stage, ← h, hidle, BitVec.toNat_zero] at hnext
    rcases s.eng.nextStage_cases with hn | ⟨hn, -⟩ | ⟨-, hn⟩ <;> omega
  · generalize t.eng = e at heff hidle
    cases heff with
    | answered | rejected | pushedPw | pushedSalt | popped => exact absurd hidle hne
    | cleared => exact ⟨by rw [hag]; exact .tail _ (.head _), rfl⟩
    | overflowed | started => nomatch hidle
  · exact ⟨by rw [hag]; exact .head _, h⟩

/-- A step that stays in `IDLE` and is neither `HardReset` nor `CLR` writes the inputs and the error registers only, and the
inputs only where it is `PUSHP` or `PUSHS`. -/
theorem step_within_idle (h : step s = .next t) (hidle' : t.eng.stage = 0#5) (hidle : s.eng.stage = 0#5)
    (hag : s.agenda.head? ∉ [some .hardReset, some (.hostCmd 0x1000#16)]) :
    t.eng = { s.eng with
      pw := t.eng.pw, pwLen := t.eng.pwLen, salt := t.eng.salt, saltLen := t.eng.saltLen
      cmdErr := t.eng.cmdErr, rejCode := t.eng.rejCode } ∧
    ((∀ b : Byte, s.agenda.head? ∉ [some (.hostCmd (0x20#8 ++ b)), some (.hostCmd (0x30#8 ++ b))]) →
      t.eng = { s.eng with cmdErr := t.eng.cmdErr, rejCode := t.eng.rejCode }) := by
  rcases (step_engine h).2 with h | ⟨-, i, hd, -⟩ | ⟨w, hw, heff⟩ | ⟨hw, -⟩
  · rw [h]
    exact ⟨rfl, fun _ => rfl⟩
  · rw [hidle] at hd
    cases hd
  · rw [hw] at hag ⊢
    generalize t.eng = e at heff hidle'
    cases heff with
    | answered | rejected => exact ⟨rfl, fun _ => rfl⟩
    | cleared => exact absurd (.tail _ (.head _)) hag
    | pushedPw b => exact ⟨rfl, fun hno => absurd (.head _) (hno b)⟩
    | pushedSalt b => exact ⟨rfl, fun hno => absurd (.tail _ (.head _)) (hno b)⟩
    | overflowed | started => nomatch hidle'
    | popped hdone => rw [hidle] at hdone; cases hdone
  · rw [hw] at hag
    exact absurd (.head _) hag

/-- A computation begins with `START` in `IDLE`. -/
theorem step_into_busy (h : step s = .next t) (hquiet : s.eng.isBusy = false) (hbusy : t.eng.isBusy = true) :
    s.agenda.head? = some (.hostCmd 0x4000#16) ∧ s.eng.stage = 0#5 ∧ t.eng = { s.eng with stage := 1#5 } := by
  rcases (step_engine h).2 with h | ⟨-, i, hd, -⟩ | ⟨w, hag, heff⟩ | ⟨-, h⟩
  · rw [h, hquiet] at hbusy
    cases hbusy
  · rw [isBusy_of_decode hd] at hquiet
    cases hquiet
  · generalize t.eng = e at heff hbusy
    cases heff with
    | answered | rejected | pushedPw | pushedSalt | popped => exact absurd (hquiet.symm.trans hbusy) Bool.false_ne_true
    | cleared | overflowed => exact absurd hbusy Bool.false_ne_true
    | started hidle => exact ⟨hag, hidle, rfl⟩
  · rw [h] at hbusy
    exact absurd hbusy Bool.false_ne_true

end

/-- Settles O41, clause by clause. -/
theorem nothingCarriesOver : Obligations.NothingCarriesOver := by
  refine fun s t h => ⟨fun hidle hne => ?_, step_eng_reset_of_idle h, step_within_idle h, step_into_busy h⟩
  obtain ⟨hag, hreset⟩ := step_into_idle h hidle hne
  exact ⟨hag, hreset ▸ Engine.reset_allZero, hreset⟩

end Sys2Proof
